-- ==== Sys2Proof/Word.lean ====
section
/-! DEFINITION. The bit-vector widths the spec uses: wire bytes, 16-bit operands, 32-bit command words and host
registers, 12-bit raw touch samples and bounds. Bits are numbered from 0 at the least significant bit (rule R9). -/

namespace Sys2Proof

/-- One byte: what a wire transfer moves (rule R70), a controller register address or value (rule R61). -/
abbrev Byte := BitVec 8

/-- A 16-bit operand: degrees, window coordinate or pixel (rules R93, R95, R96). -/
abbrev Half := BitVec 16

/-- A 32-bit command word or host register (rules R60, R90). -/
abbrev Word := BitVec 32

/-- A 12-bit raw touch sample or calibration bound (rules R5, R32). -/
abbrev Raw := BitVec 12

end Sys2Proof
end

