-- ==== Sys2Proof/Config.lean ====
section
/-! DEFINITION. The parameters of the block (rule R5), and the free values: constants without a body, so that no
proof can know what they are. The default values and the constraints on the parameters stand in
Sys2Proof/Machine/Defaults.lean. -/

namespace Sys2Proof

/-- `CAL_AXIS_BINDING` (rule R5, decision D21): whether the calibration bounds follow the screen axis or the raw
channel. -/
inductive CalBinding where
  | screen
  | raw
  deriving DecidableEq, Repr

/-- What a register write of an init table is for: the phases that rule R199 names and the column "phase" of rule R200.
The four power stages are told by their register and value instead (rule R199, items 1 and 4). -/
inductive InitPhase where
  | drivingStrength
  | powerVoltage
  /-- Gamma or VCOM trim. -/
  | trim
  | oscillator
  | oscillatorStart
  | wake
  | powerStage
  /-- A colour-mode write that selects 65K-colour (16-bit) encoding. -/
  | colourMode65k
  | panelCharacteristic
  /-- The first display-on write, "enable". -/
  | displayEnable
  /-- The second display-on write, "full-enable". -/
  | displayFullEnable
  /-- A write for none of these. -/
  | other
  deriving DecidableEq, Repr

/-- One step of an init table (rule R195). -/
inductive InitStep where
  /-- `WR(a, v)`: one register write. `phase` says what the table has it for (assumption log 6); it has no part in what
  the step does. -/
  | wr (phase : InitPhase) (a v : Byte)
  /-- `DLY(n)`: wait at least `n` ms. -/
  | dly (ms : Nat)
  /-- `WIN`: the full-screen window write. -/
  | win
  deriving DecidableEq, Repr

/-- `WIN_REG[0..7]`, each under the document's name for the byte it takes (rule R155). -/
structure WinRegs where
  colStartLow : Byte
  colStartHigh : Byte
  colEndLow : Byte
  colEndHigh : Byte
  rowStartLow : Byte
  rowStartHigh : Byte
  rowEndLow : Byte
  rowEndHigh : Byte
  deriving DecidableEq, Repr

/-- The parameters of rule R5 (and `HOST_BASE`, rule R60). They are fixed at construction time (rule R35): the
machine's state carries them and no step changes them. -/
structure Config where
  /-- `DEVICE_ID`, 2 bits. -/
  deviceId : BitVec 2
  /-- `X_MIN`, `X_MAX`, `Y_MIN`, `Y_MAX`: the calibration bounds, 12 bits unsigned each. -/
  xMin : Raw
  xMax : Raw
  yMin : Raw
  yMax : Raw
  /-- `MIN_PRESSURE`, 8 bits unsigned. -/
  minPressure : Byte
  /-- `DISP_SPEED_HZ`, `TOUCH_SPEED_HZ` (OPEN, decision D26). No rule depends on them but their constraint. -/
  dispSpeedHz : Nat
  touchSpeedHz : Nat
  /-- `INIT_ORIENTATION`, in degrees. -/
  initOrientation : Nat
  /-- `TICKS_PER_MS` (OPEN, decision D27): how many block clock cycles the delay timer takes for one millisecond. -/
  ticksPerMs : Nat
  /-- The true number of block clock cycles in a millisecond (rule R191). A fact about the clock the block is given,
  not a parameter of the block: it is here so that a `TICKS_PER_MS` below it can be told (U1). -/
  trueTicksPerMs : Nat
  /-- `WIN_REG[0..7]`. -/
  winReg : WinRegs
  /-- `ORIENT_REG`. -/
  orientReg : Byte
  /-- `INIT_TABLE`. -/
  initTable : List InitStep
  /-- `CAL_AXIS_BINDING`. -/
  calBinding : CalBinding
  /-- `FILL_BYTE`. -/
  fillByte : Byte
  /-- `TOUCH_PD`, 2 bits. -/
  touchPd : BitVec 2
  /-- `HOST_BASE` (OPEN, rule R60): the window's base address in the host's address space. -/
  hostBase : Nat
  deriving DecidableEq, Repr

/-- FREE VALUE. The touch controller's `n`-th MISO byte that no script in the state gives: any byte, under no law
(rule R130, U5; assumption log 2). -/
opaque Config.misoDraw : Nat → Byte

/-- FREE VALUE. Which of the values rule R48 admits the `n`-th host read during BUSY shows in status field `f`
(U8; assumption log 4). -/
opaque Config.busyPick : Nat → Nat → Nat

/-- FREE VALUE. The level MOSI is left at after the transfer at position `n` of epoch `e`'s trace: the spec gives the
level at block reset only (rules R33, R52; assumption log 5). -/
opaque Config.mosiIdle : Nat → Nat → Bool

end Sys2Proof
end

