-- ==== Sys2Proof/Machine/Defaults.lean ====
section
/-! DEFINITION. The default parameters (rules R5, R200) and the constraints a configuration must meet before the model
has a block for it (rules R5, R60, R199). -/

namespace Sys2Proof.Machine

/-- `PHYS_W` and `PHYS_H`: fixed constants that appear in no other rule (rule R5, conflict C6). -/
def physW : Nat := 320
def physH : Nat := 240

/-- The default `WIN_REG` (rule R5, decision D28). -/
def defaultWinReg : WinRegs where
  colStartLow := 0x03
  colStartHigh := 0x02
  colEndLow := 0x05
  colEndHigh := 0x04
  rowStartLow := 0x07
  rowStartHigh := 0x06
  rowEndLow := 0x09
  rowEndHigh := 0x08

/-- Steps 1 to 17 of the default table: driving strength, power voltage, VCOM trim, oscillator and wake (rule R200). -/
def defaultTrimSteps : List InitStep :=
  [.wr .drivingStrength 0xEA 0x00, .wr .drivingStrength 0xEB 0x20, .wr .drivingStrength 0xEC 0x0C,
   .wr .drivingStrength 0xED 0xC4, .wr .drivingStrength 0xE8 0x40, .wr .drivingStrength 0xE9 0x38,
   .wr .drivingStrength 0xF1 0x01, .wr .drivingStrength 0xF2 0x10, .wr .drivingStrength 0x27 0xA3,
   .wr .powerVoltage 0x1B 0x1B, .wr .powerVoltage 0x1A 0x01, .wr .powerVoltage 0x24 0x2F, .wr .powerVoltage 0x25 0x57,
   .wr .trim 0x23 0x8D, .wr .oscillator 0x18 0x36, .wr .oscillatorStart 0x19 0x01, .wr .wake 0x01 0x00]

/-- Steps 18 to 21 of the default table: the four power stages with their settle delays (rules R199, R200). -/
def defaultPowerSteps : List InitStep :=
  [.wr .powerStage 0x1F 0x88, .dly 5, .wr .powerStage 0x1F 0x80, .dly 5, .wr .powerStage 0x1F 0x90, .dly 5,
   .wr .powerStage 0x1F 0xD0, .dly 5]

/-- Steps 22 to 26 of the default table: colour mode, panel characteristic, window, display on (rule R200). -/
def defaultDisplayOnSteps : List InitStep :=
  [.wr .colourMode65k 0x17 0x05, .wr .panelCharacteristic 0x36 0x00, .win, .wr .displayEnable 0x28 0x38, .dly 50,
   .wr .displayFullEnable 0x28 0x3C, .dly 5]

/-- The default `INIT_TABLE` (rule R200). -/
def defaultInitTable : List InitStep := defaultTrimSteps ++ (defaultPowerSteps ++ defaultDisplayOnSteps)

/-- The default parameters of rule R5. The OPEN ones (the two speeds, `TICKS_PER_MS`, `HOST_BASE`) and the true tick
rate have no default in the spec: they take the smallest values their constraints admit (DESIGN CHOICE, assumption
log 1). -/
def defaultConfig : Config where
  deviceId := 0
  xMin := 170
  xMax := 3815
  yMin := 286
  yMax := 3839
  minPressure := 2
  dispSpeedHz := 2
  touchSpeedHz := 1
  initOrientation := 0
  ticksPerMs := 1
  trueTicksPerMs := 1
  winReg := defaultWinReg
  orientReg := 0x16
  initTable := defaultInitTable
  calBinding := .screen
  fillByte := 0x00
  touchPd := 0
  hostBase := 0

/-- Whether a step writes register 0x1F, the power-stage register (rule R199). -/
def isPowerWrite : InitStep → Bool
  | .wr _ a _ => a == 0x1F
  | _ => false

/-- Whether a step is a write of the phase `p`. -/
def isWriteOf (p : InitPhase) : InitStep → Bool
  | .wr q _ _ => decide (q = p)
  | _ => false

/-- Whether a step is `WIN`. -/
def isWin (step : InitStep) : Bool := decide (step = .win)

/-- The values a table writes to register 0x1F, in order. -/
def powerValues : List InitStep → List Byte
  | [] => []
  | .wr _ a v :: rest => if a == 0x1F then v :: powerValues rest else powerValues rest
  | _ :: rest => powerValues rest

/-- Whether a table goes on with a delay of at least `n` ms. -/
def startsWithDelay (n : Nat) : List InitStep → Bool
  | .dly m :: _ => decide (n ≤ m)
  | _ => false

/-- Every write to register 0x1F is immediately followed by a delay of at least 5 ms (rule R199, item 1). -/
def powerSettled : List InitStep → Bool
  | [] => true
  | step :: rest => (!isPowerWrite step || startsWithDelay 5 rest) && powerSettled rest

/-- The steps before the first write to register 0x1F. -/
def beforePower (t : List InitStep) : List InitStep := t.takeWhile (fun step => !isPowerWrite step)

/-- The steps after the last write to register 0x1F and its delay. -/
def afterPower (t : List InitStep) : List InitStep :=
  ((t.reverse.takeWhile (fun step => !isPowerWrite step)).reverse).drop 1

/-- The phases whose writes stand before the power stages (rule R199, item 2). -/
def earlyPhases : List InitPhase := [.drivingStrength, .trim, .oscillatorStart, .wake]

/-- The steps are exactly those of rule R199, item 3, in its order. -/
def endsDisplayOn : List InitStep → Bool
  | [.wr .colourMode65k _ _, .wr .panelCharacteristic _ _, .win, .wr .displayEnable _ _, .dly n1,
     .wr .displayFullEnable _ _, .dly n2] => decide (50 ≤ n1) && decide (5 ≤ n2)
  | _ => false

/-- Rule R199. Items 1 and 4: the power writes are exactly 0x88, 0x80, 0x90, 0xD0, each settled. Item 2: before them
stands a write of each early phase. Item 3: after them stand exactly the steps it lists, and the table has no other
`WIN` (how item 3 is read, and that a write's phase is the table's own word: DEDUCED, assumption log 6). -/
def initTableLegal (t : List InitStep) : Bool :=
  decide (powerValues t = [0x88, 0x80, 0x90, 0xD0]) && powerSettled t &&
  earlyPhases.all (fun p => (beforePower t).any (isWriteOf p)) && endsDisplayOn (afterPower t) &&
  decide ((t.filter isWin).length = 1)

/-- The constraints of rule R5 (and rule R60 for `HOST_BASE`): a configuration that breaks one is refused. The widths
of `DEVICE_ID`, `TOUCH_PD` and the bounds hold by their types. -/
def configLegal (c : Config) : Bool :=
  decide (c.xMin.toNat < c.xMax.toNat) && decide (c.yMin.toNat < c.yMax.toNat) &&
  decide (0 < c.touchSpeedHz) && decide (c.touchSpeedHz < c.dispSpeedHz) &&
  (c.initOrientation == 0 || c.initOrientation == 90 || c.initOrientation == 180 || c.initOrientation == 270) &&
  decide (1 ≤ c.ticksPerMs) && decide (c.hostBase % 64 = 0) && initTableLegal c.initTable

end Sys2Proof.Machine
end

