-- ==== Sys2Proof/Machine/Operands.lean ====
section
/-! DEFINITION. The pure operand forms of the spec: prefix bytes, byte splits, the orientation table, the touch command
byte, the raw sample's extraction and the calibration map (rules R66, R67, R150, R210, R220, R223, R230 to R236). -/

namespace Sys2Proof.Machine

/-- The two peripherals on the bus (rule R120). -/
inductive Periph where
  | lcd
  | tp
  deriving DecidableEq, Repr

/-- The SPI clock speeds: DISP is `DISP_SPEED_HZ`, TOUCH is `TOUCH_SPEED_HZ` (rule R28). -/
inductive Speed where
  | disp
  | touch
  deriving DecidableEq, Repr

/-- `rated(p)` (rule R122). -/
def rated : Periph → Speed
  | .lcd => .disp
  | .tp => .touch

/-- `GRAM_CMD`, the index "write to GRAM" (rule R6). -/
def gramCmd : Byte := 0x22

/-- `DEVICE_ID << 2` in a prefix byte (rule R150). -/
def deviceBits (c : Config) : Byte := (c.deviceId.zeroExtend 8) <<< 2

/-- `RSP`, the register-select prefix (rule R150). -/
def rsp (c : Config) : Byte := 0x70 ||| deviceBits c

/-- `DSP`, the data-select prefix (rule R150). -/
def dsp (c : Config) : Byte := 0x72 ||| deviceBits c

/-- Bits [7:0] of a 16-bit operand (rules R66, R67). -/
def lowByte (v : Half) : Byte := v.extractLsb' 0 8

/-- Bits [15:8] of a 16-bit operand (rules R66, R67). -/
def highByte (v : Half) : Byte := v.extractLsb' 8 8

/-- The pixel made of two bytes of a little-endian buffer: `b[2i] | (b[2i+1] << 8)` (rule R66). -/
def pixelOfBuffer (b0 b1 : Byte) : Half := b1 ++ b0

/-! ### Orientation (rule R210) -/

/-- The orientation code of a number of degrees, where it is one of 0, 90, 180, 270 (rules R29, R211). -/
def orientCode? (deg : Half) : Option (BitVec 2) :=
  if deg = 0 then some 0 else if deg = 90 then some 1 else if deg = 180 then some 2
  else if deg = 270 then some 3 else none

/-- `code(INIT_ORIENTATION)`, for one of the four values rule R5 admits: `deg // 90` (rule R211). -/
def initOrientCode (c : Config) : BitVec 2 := BitVec.ofNat 2 (c.initOrientation / 90)

/-- `OVAL[c]`: the value written to `ORIENT_REG` (rule R210). -/
def orientValue (c : BitVec 2) : Byte :=
  if c = 0 then 0x08 else if c = 1 then 0xA8 else if c = 2 then 0xC8 else 0x68

/-- `LWTAB[c]`: the logical width (rule R210). -/
def logicalWidth (c : BitVec 2) : Half := if c = 0 ∨ c = 2 then 240 else 320

/-- `LHTAB[c]`: the logical height (rule R210). -/
def logicalHeight (c : BitVec 2) : Half := if c = 0 ∨ c = 2 then 320 else 240

/-! ### Touch command byte and samples (rules R220, R223) -/

/-- The four touch ADC channels the block uses (rule R63). -/
inductive Channel where
  | x
  | y
  | z1
  | z2
  deriving DecidableEq, Repr

/-- `CHCODE[ch]` (rule R220). -/
def channelCode : Channel → Byte
  | .x => 0x50
  | .y => 0x10
  | .z1 => 0x30
  | .z2 => 0x40

/-- The resolution of a conversion (rule R220). -/
inductive Resolution where
  | bits8
  | bits12
  deriving DecidableEq, Repr

/-- The RESOLUTION field in place: bit 3 is 1 for an 8-bit conversion (rule R220). -/
def resolutionBits : Resolution → Byte
  | .bits8 => 0x08
  | .bits12 => 0x00

/-- `Cmd(ch, res)`: START, CHANNEL, RESOLUTION, MODE (always 0, differential) and POWER (rule R220). -/
def touchCmd (c : Config) (ch : Channel) (res : Resolution) : Byte :=
  0x80 ||| channelCode ch ||| resolutionBits res ||| 0x00 ||| c.touchPd.zeroExtend 8

/-- `{hi, lo}[14:3]`: the 12-bit sample in a 16-bit response (rules R68, R223; conflict C2). -/
def rawSample (hi lo : Byte) : Raw := (hi ++ lo : Half).extractLsb' 3 12

/-! ### Calibration (rules R230 to R236) -/

/-- `Map` on mathematical integers, with floor division and no clamping (rule R232). -/
def calMap (v inMin inMax outMin outMax : Int) : Int :=
  Int.fdiv ((v - inMin) * (outMax - outMin)) (inMax - inMin) + outMin

/-- A raw axis: the channel a map input was taken from (rules R230, R236). -/
inductive RawAxis where
  | x
  | y
  deriving DecidableEq, Repr

/-- The raw channel that screen x takes its input from (rule R230); screen y takes the other. -/
def screenXFrom (c : BitVec 2) : RawAxis := if c = 0 ∨ c = 2 then .x else .y

/-- The raw channel that screen y takes its input from (rule R230). -/
def screenYFrom (c : BitVec 2) : RawAxis := if c = 0 ∨ c = 2 then .y else .x

/-- `ix`, the map input for screen x (rule R230). -/
def mapInputX (c : BitVec 2) (xr yr : Raw) : Int :=
  if c = 0 then xr.toNat else if c = 1 then 4095 - (yr.toNat : Int)
  else if c = 2 then 4095 - (xr.toNat : Int) else yr.toNat

/-- `iy`, the map input for screen y (rule R230). -/
def mapInputY (c : BitVec 2) (xr yr : Raw) : Int :=
  if c = 0 then yr.toNat else if c = 1 then xr.toNat
  else if c = 2 then 4095 - (yr.toNat : Int) else 4095 - (xr.toNat : Int)

/-- The map with the bounds of one raw axis onto `[0, size - 1]` (rules R231, R236). -/
def mapWithBounds (cfg : Config) (bounds : RawAxis) (v : Int) (size : Half) : Int :=
  match bounds with
  | .x => calMap v cfg.xMin.toNat cfg.xMax.toNat 0 ((size.toNat : Int) - 1)
  | .y => calMap v cfg.yMin.toNat cfg.yMax.toNat 0 ((size.toNat : Int) - 1)

/-- Whose bounds screen x uses: always X's under SCREEN, those of its raw channel under RAW (rules R231, R236). -/
def boundsForX (cfg : Config) (c : BitVec 2) : RawAxis :=
  match cfg.calBinding with
  | .screen => .x
  | .raw => screenXFrom c

/-- Whose bounds screen y uses (rules R231, R236). -/
def boundsForY (cfg : Config) (c : BitVec 2) : RawAxis :=
  match cfg.calBinding with
  | .screen => .y
  | .raw => screenYFrom c

/-- The screen x of `Transform(xr, yr, c)` (rules R230, R231, R236). -/
def transformX (cfg : Config) (c : BitVec 2) (xr yr : Raw) : Int :=
  mapWithBounds cfg (boundsForX cfg c) (mapInputX c xr yr) (logicalWidth c)

/-- The screen y of `Transform(xr, yr, c)` (rules R230, R231, R236). -/
def transformY (cfg : Config) (c : BitVec 2) (xr yr : Raw) : Int :=
  mapWithBounds cfg (boundsForY cfg c) (mapInputY c xr yr) (logicalHeight c)

/-- A coordinate as TOUCH_X and TOUCH_Y hold it: 32-bit two's complement (rules R32, R44). -/
def coordWord (v : Int) : Word := BitVec.ofInt 32 v

end Sys2Proof.Machine
end

