-- ==== Sys2Proof/Machine/State.lean ====
section
/-! DEFINITION. The state of the block (10_state.md), the environment that drives it (the host's accesses, the touch
controller's answers), the reasons a step can stop, and the state after block reset (rule R52). -/

namespace Sys2Proof.Machine

/-- `S.ctl`, the controller state (rule R23). -/
inductive CtlState where
  | unpowered
  | resetting
  | configuring
  | ready
  deriving DecidableEq, Repr

/-- The result codes that have a name (rule R260). Codes 6 to 15 are reserved and never produced, so no value of this
type stands for them (U15). -/
inductive Result where
  | ok
  | invalidOrientation
  /-- Reserved; never produced (rule R269). -/
  | busTransactionFailure
  | wrongState
  | busConflict
  | illegalCommand
  deriving DecidableEq, Repr

/-- A wire event (rule R121). A level `false` is 0, `true` is 1; the byte in of a transfer to the display is `none`,
the spec's `_`. -/
inductive Event where
  | speed (s : Speed)
  | cs (p : Periph) (level : Bool)
  | xfer (p : Periph) (out : Byte) (inp : Option Byte)
  | rst (level : Bool)
  | wait (ms : Nat)
  deriving DecidableEq, Repr

/-- What the host, and the block's reset input, do next (rules R20, R60, R106, R290). -/
inductive HostOp where
  /-- `MemWrite(off, bytes, v)`. -/
  | write (off bytes : Nat) (v : Word)
  /-- `MemRead(off, bytes)`, made at once: before the running command's completion, if there is one (rule R48). -/
  | read (off bytes : Nat)
  /-- `WAITIDLE`: the host reads STATUS until BUSY = 0 (rule R106). -/
  | awaitIdle
  /-- `RESET_n` is asserted (rule R290); a running command has by then appended `events` of its wire events. -/
  | blockReset (events : Nat)
  deriving DecidableEq, Repr

/-- The value one host read returned (rule R72). -/
structure HostRead where
  off : Nat
  value : Word
  deriving DecidableEq, Repr

/-- The whole state. Fields to `trace` are the spec's; `hostOps` to `busyReads` are the model's own view of the
block's environment and of what has been observed. -/
structure State where
  /-- The parameters (rules R5, R35): no step changes them. -/
  cfg : Config
  /-- `S.ctl` (rule R23). -/
  ctl : CtlState
  /-- `S.busy`: a command has been accepted and has not completed (rule R24). -/
  busy : Bool
  /-- `S.pend`: operand words still expected (rule R25). -/
  pend : BitVec 2
  /-- `S.cbuf`: the words of the command being collected or executed (rule R25). -/
  cbuf : List Word
  /-- `S.stream`: a pixel stream is open (rule R26). -/
  stream : Bool
  /-- `S.owner`: the holder of the ownership token, NONE being `none` (rule R27). -/
  owner : Option Periph
  /-- `S.speed`: the clock speed now programmed (rule R28). -/
  speed : Speed
  /-- `S.orient`: the orientation code (rule R29). -/
  orient : BitVec 2
  /-- `S.win_armed` (rule R30). -/
  winArmed : Bool
  /-- `S.result` (rule R31). -/
  result : Result
  /-- `S.err_sticky` (rule R31). -/
  errSticky : Bool
  /-- `S.t_valid` (rule R32). -/
  tValid : Bool
  /-- `S.t_x`, `S.t_y`, two's complement (rule R32). -/
  tX : Word
  tY : Word
  /-- `S.t_z1`, `S.t_z2` (rule R32). -/
  tZ1 : Byte
  tZ2 : Byte
  /-- `S.t_press` (rule R32). -/
  tPress : BitVec 7
  /-- `S.t_xraw`, `S.t_yraw` (rule R32). -/
  tXraw : Raw
  tYraw : Raw
  /-- `S.cs_lcd_n`, `S.cs_tp_n`, `S.rst_n`: the levels of the active-low pins (rule R33). -/
  csLcdN : Bool
  csTpN : Bool
  rstN : Bool
  /-- SCLK and MOSI between transfers (rules R33, R52). -/
  sclk : Bool
  mosi : Bool
  /-- The delay timer (rule R277). -/
  timer : Nat
  /-- `S.trace`: the wire events since block reset, oldest first (rules R34, R121). -/
  trace : List Event
  /-- What the host does next, oldest first. -/
  hostOps : List HostOp
  /-- MISO bytes the touch controller will answer with, oldest first; after them every byte is a free value. -/
  miso : List Byte
  /-- How many free MISO bytes have been drawn. -/
  misoDraws : Nat
  /-- What the host's reads returned, oldest first. -/
  readLog : List HostRead
  /-- How many reads during BUSY have been answered. -/
  busyReads : Nat
  /-- The traces of the epochs that block resets ended, oldest first (rule R290). -/
  epochs : List (List Event)
  deriving DecidableEq, Repr

/-- The wire primitive whose precondition did not hold (rule R133). -/
inductive Primitive where
  | acquire
  | release
  | select
  | deselect
  | xfer
  deriving DecidableEq, Repr

/-- Why the machine stops. -/
inductive Fault where
  /-- A wire primitive was used where its precondition does not hold: "a model that reaches one must stop with a
  model-defect fault" (rule R133). Raised by the primitives of Ops.lean. SAFE: no state that meets the invariants of
  rules R36 to R38 reaches it. -/
  | modelDefect (p : Primitive)
  /-- The command collector holds what it never collects: PENDING = 3, or words that are no whole command (U15).
  Raised by the collector and by the execution of its words. SAFE: no run reaches it. -/
  | collectorDefect
  /-- A host access that is not an aligned 32-bit access inside the window: "a model gives it no step (stuck)"
  (rule R71, U9). Raised by the host port. SAFE. -/
  | hostAccessStuck
  /-- A wait counted with a `TICKS_PER_MS` below the true rate would be too short, and what the controller then does is
  undefined (rule R191; U1's treatment is a fault). Raised by `Wait`. SAFE. -/
  | waitTooShort
  deriving DecidableEq, Repr

/-- Why the machine has no step. -/
inductive Refusal where
  /-- An instruction without a meaning yet. Raised by no arm: every command has its meaning. SAFE. -/
  | notModelled (mnemonic : String)
  /-- The parameters break a constraint of rule R5: "the model has no block for it". Raised by `step`. SAFE. -/
  | configurationRefused
  deriving DecidableEq, Repr

/-- The state after block reset with parameters `c` (rule R52), in an environment that does nothing yet. -/
def State.resetWith (c : Config) : State where
  cfg := c
  ctl := .unpowered
  busy := false
  pend := 0
  cbuf := []
  stream := false
  owner := none
  speed := .disp
  orient := initOrientCode c
  winArmed := false
  result := .ok
  errSticky := false
  tValid := false
  tX := 0
  tY := 0
  tZ1 := 0
  tZ2 := 0
  tPress := 0
  tXraw := 0
  tYraw := 0
  csLcdN := true
  csTpN := true
  rstN := true
  sclk := false
  mosi := false
  timer := 0
  trace := []
  hostOps := []
  miso := []
  misoDraws := 0
  readLog := []
  busyReads := 0
  epochs := []

/-- The machine right after reset, with the default parameters of rule R5. -/
def State.reset : State := State.resetWith defaultConfig

end Sys2Proof.Machine
end

