-- ==== Sys2Proof/Syntax.lean ====
section
/-! DEFINITION. The ten commands of DTC command set version 1 (rules R2, R98), one constructor for each row of
spec/opcode_table.json, and the source lines of rules R105, R106 and R110 (commands with unbounded operands, raw
words, host lines, pseudo-commands). -/

namespace Sys2Proof

/-- A decoded command. Every operand has exactly the width of its field (rule R99), so every value of this type has
an encoding; the operands an assembler must refuse stand in `Line`. -/
inductive Instr where
  /-- RESET: hardware-reset the display controller (rule R190). -/
  | reset
  /-- CONFIG: run the initialization table (rule R201). -/
  | config
  /-- SETORI deg: set the orientation, in degrees (rule R211). -/
  | setori (deg : Half)
  /-- WRREG addr, val: write one controller register (rule R152). -/
  | wrreg (addr val : Byte)
  /-- SETWIN x0, y0, x1, y1: set the addressable window (rule R156). -/
  | setwin (x0 y0 x1 y1 : Half)
  /-- BEGIN: open a pixel stream (rule R160). -/
  | beginStream
  /-- PIXEL p: stream one 16-bit pixel (rule R170). -/
  | pixel (p : Half)
  /-- BYTE b: stream one raw byte (rule R175). -/
  | byte (b : Byte)
  /-- END: close the pixel stream (rule R164). -/
  | endStream
  /-- TPOLL: one full touch poll (rule R240). -/
  | tpoll
  deriving DecidableEq, Repr

/-- The named host registers of rules R40 to R46, as a READ line names them (rule R106). -/
inductive HostReg where
  | cmd
  | status
  | geometry
  | touchStatus
  | touchX
  | touchY
  | touchRawZ
  | touchRawXY
  deriving DecidableEq, Repr

/-- One source line (rules R105, R106, R110). Operands are plain numbers: whether they fit their fields is the check
of WellFormed.lean. -/
inductive Line where
  | reset
  | config
  | setori (deg : Nat)
  | wrreg (addr val : Nat)
  | setwin (x0 y0 x1 y1 : Nat)
  | beginStream
  | pixel (p : Nat)
  | byte (b : Nat)
  | endStream
  | tpoll
  /-- `.word w`: the raw word `w` is written to CMD (rule R106). -/
  | rawWord (w : Nat)
  /-- `WAITIDLE`: read STATUS until BUSY = 0 (rule R106). -/
  | waitIdle
  /-- `READ reg`: one host read of the named register (rule R106). -/
  | readReg (r : HostReg)
  /-- `BOOT o` (rule R110). -/
  | boot (deg : Nat)
  /-- `FLUSH x0, y0, x1, y1, P0, ...` (rule R110). -/
  | flush (x0 y0 x1 y1 : Nat) (pixels : List Nat)
  /-- `FLUSHLE x0, y0, x1, y1, b0, b1, ...`, the buffer's bytes low byte first, as pairs (rules R66, R110). -/
  | flushLe (x0 y0 x1 y1 : Nat) (buffer : List (Nat × Nat))
  /-- `POLL` (rule R110). -/
  | poll
  deriving DecidableEq, Repr

end Sys2Proof
end

