-- ==== Sys2Proof/Machine/Flags.lean ====
section
/-! DEFINITION. The conditions and status bits the spec computes: the pressure and the contact test (rules R225, R226),
the codes of the STATUS fields (rule R41) and the register words themselves (rules R40 to R47). -/

namespace Sys2Proof.Machine

/-- `((z1 & 0x7F) + (255 - z2)) & 0x7F` (rule R225; conflict C3). -/
def pressure (z1 z2 : Byte) : BitVec 7 :=
  BitVec.ofNat 7 (((z1 &&& 0x7F).toNat + (255 - z2.toNat)) % 128)

/-- The pressure test: `pressure < MIN_PRESSURE` is no contact (rule R226). -/
def noContact (c : Config) (p : BitVec 7) : Bool := decide (p.toNat < c.minPressure.toNat)

/-- STATUS.STATE (rules R23, R41). -/
def ctlCode : CtlState → BitVec 2
  | .unpowered => 0
  | .resetting => 1
  | .configuring => 2
  | .ready => 3

/-- STATUS.OWNER (rules R27, R41). -/
def ownerCode : Option Periph → BitVec 2
  | none => 0
  | some .lcd => 1
  | some .tp => 2

/-- STATUS.SPEED (rules R28, R41). -/
def speedCode : Speed → BitVec 1
  | .disp => 0
  | .touch => 1

/-- STATUS.RESULT (rule R260). -/
def resultCode : Result → BitVec 4
  | .ok => 0
  | .invalidOrientation => 1
  | .busTransactionFailure => 2
  | .wrongState => 3
  | .busConflict => 4
  | .illegalCommand => 5

/-- A one-bit field. -/
def flagBit (b : Bool) : BitVec 1 := BitVec.ofBool b

/-- `STATUS`, offset 0x04 (rule R41). -/
def statusWord (s : State) : Word :=
  (0 : BitVec 15) ++ flagBit s.winArmed ++ s.pend ++ s.orient ++ resultCode s.result ++ flagBit s.errSticky ++
    speedCode s.speed ++ ownerCode s.owner ++ flagBit s.stream ++ flagBit s.busy ++ ctlCode s.ctl

/-- `GEOMETRY`, offset 0x08 (rule R42). -/
def geometryWord (s : State) : Word := logicalHeight s.orient ++ logicalWidth s.orient

/-- `TOUCH_STATUS`, offset 0x0C (rule R43). -/
def touchStatusWord (s : State) : Word := (0 : BitVec 17) ++ s.tPress ++ (0 : BitVec 7) ++ flagBit s.tValid

/-- `TOUCH_RAW_Z`, offset 0x18 (rule R45). -/
def touchRawZWord (s : State) : Word := (0 : BitVec 16) ++ s.tZ2 ++ s.tZ1

/-- `TOUCH_RAW_XY`, offset 0x1C (rule R46). -/
def touchRawXYWord (s : State) : Word := (0 : BitVec 4) ++ s.tYraw ++ (0 : BitVec 4) ++ s.tXraw

/-- `MemRead(off, 4)` for an admitted offset, when no command runs: CMD and the reserved offsets read 0
(rules R40 to R47). -/
def readRegister (s : State) (off : Nat) : Word :=
  match off with
  | 0x04 => statusWord s
  | 0x08 => geometryWord s
  | 0x0C => touchStatusWord s
  | 0x10 => s.tX
  | 0x14 => s.tY
  | 0x18 => touchRawZWord s
  | 0x1C => touchRawXYWord s
  | _ => 0

/-- The offset of a named register (rules R40 to R46). -/
def registerOffset : HostReg → Nat
  | .cmd => 0x00
  | .status => 0x04
  | .geometry => 0x08
  | .touchStatus => 0x0C
  | .touchX => 0x10
  | .touchY => 0x14
  | .touchRawZ => 0x18
  | .touchRawXY => 0x1C

end Sys2Proof.Machine
end

