-- ==== Sys2Proof/Machine/Ops.lean ====
section
/-! DEFINITION. The shared operations: the wire primitives (rules R126 to R133), the brackets built from them (rules
R151, R155, R195, R222, R223), how a command ends (rules R261, R262) and block reset (rule R290). A command's wire
activity is a function `State → Except Fault State`; its only errors are the model-defect faults of rule R133 and the
wait that would be too short (rule R191). -/

namespace Sys2Proof.Machine

/-! ### Ending a command -/

/-- The completion step (rule R262). -/
def complete (code : Result) (s : State) : State :=
  { s with result := code, errSticky := s.errSticky || decide (code ≠ .ok), cbuf := [], busy := false }

/-- `raise E`: the command ends with result `E` and no effect but the completion step (rule R261). The block has no
traps (rule R272), so this is the whole of taking an error, and there is no return from one (rule R273). -/
def raise (code : Result) (s : State) : Host.Outcome State Fault Refusal := .next (complete code s)

/-- A command whose guards have passed ends with result OK (rule R262), or with the fault its wire activity met. -/
def finish (r : Except Fault State) : Host.Outcome State Fault Refusal :=
  match r with
  | .ok s => .next (complete .ok s)
  | .error f => .fault f

/-- `if c then a else b`, taken apart so that whether the result is an error can be computed before `c` is known
(`chooseBranch_eq` in Laws/Ops.lean says that it is the `if`). -/
def chooseBranch (c : Bool) (a b : Except Fault State) : Except Fault State :=
  match a, b with
  | .ok x, .ok y => .ok (if c then x else y)
  | .ok x, .error f => if c then .ok x else .error f
  | .error f, b => if c then .error f else b

/-! ### State updates -/

/-- An event is appended to the trace (rule R121). -/
def State.emit (s : State) (e : Event) : State := { s with trace := s.trace ++ [e] }

/-- The chip-select of `p` is driven to `level` (rules R128, R129). -/
def State.driveCs (s : State) (p : Periph) (level : Bool) : State :=
  match p with
  | .lcd => { s with csLcdN := level }
  | .tp => { s with csTpN := level }

/-- Both chip-selects are deasserted. -/
def bothDeselected (s : State) : Bool := s.csLcdN && s.csTpN

/-- Exactly one chip-select is asserted, that of `p` (rule R130). -/
def onlySelected (p : Periph) (s : State) : Bool :=
  match p with
  | .lcd => !s.csLcdN && s.csTpN
  | .tp => s.csLcdN && !s.csTpN

/-- The next MISO byte from the touch controller: the script's, and after its end a free value (rule R130, U5). -/
def nextMiso (s : State) : Byte :=
  match s.miso with
  | b :: _ => b
  | [] => Config.misoDraw s.misoDraws

/-- The state after one MISO byte has been taken. -/
def State.dropMiso (s : State) : State :=
  match s.miso with
  | _ :: rest => { s with miso := rest }
  | [] => { s with misoDraws := s.misoDraws + 1 }

/-- The pins and the trace after eight bits have been shifted: SCLK idles low (rule R140), MOSI is left at a level the
spec does not give (rule R33). -/
def State.shifted (s : State) (e : Event) : State :=
  { s with sclk := false, mosi := Config.mosiIdle s.epochs.length s.trace.length, trace := s.trace ++ [e] }

/-! ### Wire primitives (rules R126 to R132) -/

/-- `Acquire(p)` (rule R126). -/
def acquire (p : Periph) (s : State) : Except Fault State :=
  if s.owner = none ∧ bothDeselected s = true then
    .ok (({ s with owner := some p, speed := rated p }).emit (.speed (rated p)))
  else .error (.modelDefect .acquire)

/-- `Release()` (rule R127). -/
def release (s : State) : Except Fault State :=
  if s.owner ≠ none ∧ bothDeselected s = true then .ok { s with owner := none }
  else .error (.modelDefect .release)

/-- `Select(p)` (rule R128). -/
def select (p : Periph) (s : State) : Except Fault State :=
  if s.owner = some p ∧ bothDeselected s = true then .ok ((s.driveCs p false).emit (.cs p false))
  else .error (.modelDefect .select)

/-- `Deselect(p)`: the event is appended even if the line was already 1 (rule R129). -/
def deselect (p : Periph) (s : State) : Except Fault State :=
  if s.owner = some p then .ok ((s.driveCs p true).emit (.cs p true))
  else .error (.modelDefect .deselect)

/-- `Xfer(o)` with the byte in discarded (rule R130). MISO is sampled from the touch controller only. -/
def xfer (o : Byte) (s : State) : Except Fault State :=
  match s.owner with
  | none => .error (.modelDefect .xfer)
  | some p =>
    if onlySelected p s = true ∧ s.speed = rated p then
      match p with
      | .lcd => .ok (s.shifted (.xfer .lcd o none))
      | .tp => .ok (s.dropMiso.shifted (.xfer .tp o (some (nextMiso s))))
    else .error (.modelDefect .xfer)

/-- `i <- Xfer(o)` with the touch controller selected: the byte in is kept (rule R130). -/
def xferIn (o : Byte) (s : State) : Except Fault (Byte × State) := do
  let t ← xfer o s
  .ok (nextMiso s, t)

/-- The delay timer loaded with `n × TICKS_PER_MS` (rule R277). -/
def State.loadTimer (s : State) (n : Nat) : State := { s with timer := n * s.cfg.ticksPerMs }

/-- The delay timer after it has counted down to zero: a command is one transition, so that is how `Wait` leaves it
(rules R22, R277). -/
def State.timerExpired (s : State) : State := { s with timer := 0 }

/-- `Wait(n)` (rules R131, R277). A timer that runs faster than the true rate would wait too short a time
(rule R191, U1). -/
def wait (n : Nat) (s : State) : Except Fault State :=
  if s.cfg.ticksPerMs < s.cfg.trueTicksPerMs then .error .waitTooShort
  else .ok (((s.loadTimer n).timerExpired).emit (.wait n))

/-- `ResetLine(l)` (rule R132). -/
def resetLine (level : Bool) (s : State) : State := ({ s with rstN := level }).emit (.rst level)

/-! ### Display brackets (rules R151, R155, R195) -/

/-- One display bracket: a prefix byte and a payload byte (rules R150, R151). -/
def lcdBracket (first second : Byte) (s : State) : Except Fault State := do
  let s ← select .lcd s
  let s ← xfer first s
  let s ← xfer second s
  deselect .lcd s

/-- `RegWrite(a, v)` (rule R151). -/
def regWrite (a v : Byte) (s : State) : Except Fault State := do
  let s ← lcdBracket (rsp s.cfg) a s
  lcdBracket (dsp s.cfg) v s

/-- Register writes one after the other. -/
def regWrites : List (Byte × Byte) → State → Except Fault State
  | [], s => .ok s
  | (a, v) :: rest, s => do
    let s ← regWrite a v s
    regWrites rest s

/-- The eight writes of a window, in their order (rule R155). -/
def windowWrites (r : WinRegs) (x0 y0 x1 y1 : Half) : List (Byte × Byte) :=
  [(r.colStartLow, lowByte x0), (r.colStartHigh, highByte x0), (r.colEndLow, lowByte x1),
   (r.colEndHigh, highByte x1), (r.rowStartLow, lowByte y0), (r.rowStartHigh, highByte y0),
   (r.rowEndLow, lowByte y1), (r.rowEndHigh, highByte y1)]

/-- `WinWrite(x0, y0, x1, y1)` (rule R155). -/
def winWrite (x0 y0 x1 y1 : Half) (s : State) : Except Fault State :=
  regWrites (windowWrites s.cfg.winReg x0 y0 x1 y1) s

/-- One step of an init table (rule R195). -/
def runInitStep (step : InitStep) (s : State) : Except Fault State :=
  match step with
  | .wr _ a v => regWrite a v s
  | .dly n => wait n s
  | .win => winWrite 0 0 (logicalWidth s.orient - 1) (logicalHeight s.orient - 1) s

/-- The steps of an init table, in order (rules R201, R202). -/
def runInitTable : List InitStep → State → Except Fault State
  | [], s => .ok s
  | step :: rest, s => do
    let s ← runInitStep step s
    runInitTable rest s

/-! ### Touch brackets (rules R222, R223) -/

/-- `AdcRead8(ch)` (rule R222). -/
def adcRead8 (ch : Channel) (s : State) : Except Fault (Byte × State) := do
  let s ← select .tp s
  let s ← xfer (touchCmd s.cfg ch .bits8) s
  let (r, s) ← xferIn s.cfg.fillByte s
  let s ← deselect .tp s
  .ok (r, s)

/-- `AdcRead12(ch)` (rule R223). -/
def adcRead12 (ch : Channel) (s : State) : Except Fault (Raw × State) := do
  let s ← select .tp s
  let s ← xfer (touchCmd s.cfg ch .bits12) s
  let (hi, s) ← xferIn s.cfg.fillByte s
  let (lo, s) ← xferIn s.cfg.fillByte s
  let s ← deselect .tp s
  .ok (rawSample hi lo, s)

/-- One axis: two conversions in a row, the second kept (rule R224). -/
def adcReadTwice (ch : Channel) (s : State) : Except Fault (Raw × State) := do
  let (_, s) ← adcRead12 ch s
  adcRead12 ch s

/-! ### Block reset (rules R52, R290) -/

/-- Block reset: every element takes its reset value, the parameters stay, the epoch's trace is kept apart, and the
environment goes on (rules R290, R291). -/
def blockReset (s : State) : State :=
  { State.resetWith s.cfg with
    hostOps := s.hostOps
    miso := s.miso
    misoDraws := s.misoDraws
    readLog := s.readLog
    busyReads := s.busyReads
    epochs := s.epochs ++ [s.trace] }

/-- How many bytes of a list of events the touch controller answered. -/
def misoBytesIn : List Event → Nat
  | [] => 0
  | .xfer .tp _ _ :: rest => misoBytesIn rest + 1
  | _ :: rest => misoBytesIn rest

/-- What has been observed of a command abandoned after `k` of its wire events (rules R274, R290): those events, and
as many MISO bytes taken as they show. `done` is the trace of the command carried to its end. -/
def abandonAfter (k : Nat) (done : List Event) (s : State) : State :=
  let events := (done.drop s.trace.length).take k
  let taken := misoBytesIn events
  { s with
    trace := s.trace ++ events
    miso := s.miso.drop taken
    misoDraws := s.misoDraws + (taken - s.miso.length) }

end Sys2Proof.Machine
end

