-- ==== Sys2Proof/Machine/Controller.lean ====
section
/-! DEFINITION. The controller commands RESET, CONFIG and SETORI (42_display_fsm.md). -/

namespace Sys2Proof.Machine

/-- How RESET comes to hold the bus: it takes over an open stream's acquisition, or acquires (rule R190). -/
def takeBusForReset (s : State) : Except Fault State :=
  if s.stream then .ok { s with stream := false } else acquire .lcd s

/-- RESET's effect (rule R190). -/
def resetController (s : State) : Except Fault State := do
  let s ← takeBusForReset s
  let s ← deselect .lcd { s with ctl := .resetting }
  let s ← wait 50 (resetLine false s)
  let s ← wait 120 (resetLine true s)
  let s ← release s
  .ok { s with ctl := .configuring, orient := initOrientCode s.cfg, winArmed := false }

/-- RESET has no guards (rule R190). -/
def execReset (s : State) : Host.Outcome State Fault Refusal := finish (resetController s)

/-- CONFIG's effect (rule R201). -/
def configureController (s : State) : Except Fault State := do
  let s ← acquire .lcd s
  let s ← runInitTable s.cfg.initTable s
  let s ← release s
  .ok { s with ctl := .ready, winArmed := true }

/-- CONFIG, with its guards in the order of rule R268 (rule R201). -/
def execConfig (s : State) : Host.Outcome State Fault Refusal :=
  if s.stream then raise .busConflict s
  else if s.ctl ≠ .configuring then raise .wrongState s
  else finish (configureController s)

/-- SETORI's effect for the orientation code `c` (rule R211). -/
def writeOrientation (c : BitVec 2) (s : State) : Except Fault State := do
  let s ← acquire .lcd s
  let s ← regWrite s.cfg.orientReg (orientValue c) s
  let s ← release s
  .ok { s with orient := c, winArmed := false }

/-- SETORI, with its guards in the order of rule R268 (rule R211). -/
def execSetori (deg : Half) (s : State) : Host.Outcome State Fault Refusal :=
  if s.stream then raise .busConflict s
  else if s.ctl ≠ .ready then raise .wrongState s
  else match orientCode? deg with
    | none => raise .invalidOrientation s
    | some c => finish (writeOrientation c s)

end Sys2Proof.Machine
end

