-- ==== Sys2Proof/Machine/Display.lean ====
section
/-! DEFINITION. The display register protocol's commands WRREG, SETWIN, BEGIN, PIXEL, BYTE and END
(41_display_protocol.md). -/

namespace Sys2Proof.Machine

/-- WRREG's effect (rule R152). -/
def writeOneRegister (addr val : Byte) (s : State) : Except Fault State := do
  let s ← acquire .lcd s
  let s ← regWrite addr val s
  release s

/-- WRREG, with its guards in the order of rule R268 (rule R152). -/
def execWrreg (addr val : Byte) (s : State) : Host.Outcome State Fault Refusal :=
  if s.stream then raise .busConflict s
  else if s.ctl ≠ .configuring ∧ s.ctl ≠ .ready then raise .wrongState s
  else finish (writeOneRegister addr val s)

/-- SETWIN's effect (rule R156). -/
def setWindow (x0 y0 x1 y1 : Half) (s : State) : Except Fault State := do
  let s ← acquire .lcd s
  let s ← winWrite x0 y0 x1 y1 s
  let s ← release s
  .ok { s with winArmed := true }

/-- SETWIN, with its guards in the order of rule R268 (rule R156). -/
def execSetwin (x0 y0 x1 y1 : Half) (s : State) : Host.Outcome State Fault Refusal :=
  if s.stream then raise .busConflict s
  else if s.ctl ≠ .ready then raise .wrongState s
  else finish (setWindow x0 y0 x1 y1 s)

/-- BEGIN's effect: the bus is kept and the display stays selected (rule R160). -/
def openStream (s : State) : Except Fault State := do
  let s ← acquire .lcd s
  let s ← lcdBracket (rsp s.cfg) gramCmd s
  let s ← select .lcd s
  let s ← xfer (dsp s.cfg) s
  .ok { s with stream := true, winArmed := false }

/-- BEGIN, with its guards in the order of rule R268 (rule R160). -/
def execBegin (s : State) : Host.Outcome State Fault Refusal :=
  if s.stream then raise .busConflict s
  else if s.ctl ≠ .ready then raise .wrongState s
  else if s.winArmed = false then raise .wrongState s
  else finish (openStream s)

/-- PIXEL's effect: high byte first (rules R66, R170). -/
def streamPixel (p : Half) (s : State) : Except Fault State := do
  let s ← xfer (highByte p) s
  xfer (lowByte p) s

/-- PIXEL (rule R170). -/
def execPixel (p : Half) (s : State) : Host.Outcome State Fault Refusal :=
  if s.stream = false then raise .wrongState s else finish (streamPixel p s)

/-- BYTE (rule R175). -/
def execByte (b : Byte) (s : State) : Host.Outcome State Fault Refusal :=
  if s.stream = false then raise .wrongState s else finish (xfer b s)

/-- END's effect (rule R164). -/
def closeStream (s : State) : Except Fault State := do
  let s ← deselect .lcd s
  release { s with stream := false }

/-- END (rule R164). -/
def execEnd (s : State) : Host.Outcome State Fault Refusal :=
  if s.stream = false then raise .wrongState s else finish (closeStream s)

end Sys2Proof.Machine
end

