-- ==== Sys2Proof/Machine/Touch.lean ====
section
/-! DEFINITION. The touch sampler's command TPOLL (43_touch.md). -/

namespace Sys2Proof.Machine

/-- The pressure probe: the bus at touch speed, Z1 then Z2 (rule R240). -/
def probePressure (s : State) : Except Fault (Byte × Byte × State) := do
  let s ← acquire .tp s
  let (z1, s) ← adcRead8 .z1 s
  let (z2, s) ← adcRead8 .z2 s
  .ok (z1, z2, s)

/-- The touch result state of a poll, written all at once (rules R32, R240; decision D23). -/
def storeTouch (valid : Bool) (x y : Int) (z1 z2 : Byte) (xr yr : Raw) (s : State) : State :=
  { s with
    tValid := valid
    tX := coordWord x
    tY := coordWord y
    tZ1 := z1
    tZ2 := z2
    tPress := pressure z1 z2
    tXraw := xr
    tYraw := yr }

/-- A poll that finds no contact makes no X or Y conversion (rules R226, R240). -/
def pollNoContact (z1 z2 : Byte) (s : State) : Except Fault State := do
  let s ← release s
  .ok (storeTouch false 0 0 z1 z2 0 0 s)

/-- A poll that finds contact: X before Y, each sampled twice (rules R224, R240). -/
def pollContact (z1 z2 : Byte) (s : State) : Except Fault State := do
  let (xr, s) ← adcReadTwice .x s
  let (yr, s) ← adcReadTwice .y s
  let s ← release s
  .ok (storeTouch true (transformX s.cfg s.orient xr yr) (transformY s.cfg s.orient xr yr) z1 z2 xr yr s)

/-- TPOLL's effect: if there is no contact, the one poll, otherwise the other (rule R240). -/
def pollTouch (s : State) : Except Fault State := do
  let (z1, z2, s) ← probePressure s
  chooseBranch (noContact s.cfg (pressure z1 z2)) (pollNoContact z1 z2 s) (pollContact z1 z2 s)

/-- TPOLL: the only guard is the stream (rule R240). -/
def execTpoll (s : State) : Host.Outcome State Fault Refusal :=
  if s.stream then raise .busConflict s else finish (pollTouch s)

end Sys2Proof.Machine
end

