-- ==== Sys2Proof/Machine/Dispatch.lean ====
section
/-! DEFINITION. One arm for each command: its meaning, completion step included (rules R12, R262). -/

namespace Sys2Proof.Machine

def exec (i : Instr) (s : State) : Host.Outcome State Fault Refusal :=
  match i with
  | .reset => Sys2Proof.Machine.execReset s
  | .config => Sys2Proof.Machine.execConfig s
  | .setori deg => Sys2Proof.Machine.execSetori deg s
  | .wrreg addr val => Sys2Proof.Machine.execWrreg addr val s
  | .setwin x0 y0 x1 y1 => Sys2Proof.Machine.execSetwin x0 y0 x1 y1 s
  | .beginStream => Sys2Proof.Machine.execBegin s
  | .pixel p => Sys2Proof.Machine.execPixel p s
  | .byte b => Sys2Proof.Machine.execByte b s
  | .endStream => Sys2Proof.Machine.execEnd s
  | .tpoll => Sys2Proof.Machine.execTpoll s

end Sys2Proof.Machine
end

