-- ==== Sys2Proof/Decode.lean ====
section
/-! DEFINITION. The opcode map (rule R98), the decoder from the words of a command (rules R91, R99, R100, R101), total
on any list of words, and the encoder (rules R92 to R97, R105). -/

namespace Sys2Proof

/-- Why a list of words is no command. -/
inductive DecodeError where
  /-- Word0 matches no row of the opcode map: ILLEGAL_COMMAND (rule R100). -/
  | illegal
  /-- There is no word at all. The collector never hands this to the decoder. -/
  | noWords
  /-- A SETWIN word0 without its two operand words. The collector never hands this to the decoder. -/
  | operandsMissing
  /-- More words than word0's length. The collector never hands this to the decoder. -/
  | trailingWords
  deriving DecidableEq, Repr

/-- The SETWIN word0, the only word0 that two operand words follow (rules R90, R91). -/
def setwinWord0 : Word := 0x05000000

/-- The length in words of the command a word0 begins, decided from word0 alone (rule R91). -/
def commandLength (w0 : Word) : Nat := if w0 = setwinWord0 then 3 else 1

/-- `OP = word0[31:24]` (rule R90). -/
def fieldOp (w : Word) : Byte := w.extractLsb' 24 8

/-- `word0[23:0]`, the reserved field of format N (rule R92). -/
def fieldReservedN (w : Word) : BitVec 24 := w.extractLsb' 0 24

/-- `word0[23:16]`, the reserved field of formats O, R and P (rules R93, R94, R96). -/
def fieldReservedHigh (w : Word) : Byte := w.extractLsb' 16 8

/-- `word0[23:8]`, the reserved field of format B (rule R97). -/
def fieldReservedB (w : Word) : Half := w.extractLsb' 8 16

/-- `word[31:16]`: X0 and X1 (rule R95). -/
def fieldHigh (w : Word) : Half := w.extractLsb' 16 16

/-- `word[15:0]`: DEG, PIX, Y0 and Y1 (rules R93, R95, R96). -/
def fieldLow (w : Word) : Half := w.extractLsb' 0 16

/-- `word0[15:8]`: ADDR (rule R94). -/
def fieldAddr (w : Word) : Byte := w.extractLsb' 8 8

/-- `word0[7:0]`: VAL and DATA (rules R94, R97). -/
def fieldByte (w : Word) : Byte := w.extractLsb' 0 8

/-- A command whose reserved field must be 0 (rule R100). -/
def whenReserved (reservedIsZero : Bool) (i : Instr) : Except DecodeError Instr :=
  if reservedIsZero then .ok i else .error .illegal

/-- `Decode(w0)` of rule R101 for the one-word commands. -/
def decodeOneWord (w : Word) : Except DecodeError Instr :=
  match (fieldOp w).toNat with
  | 0x01 => whenReserved (fieldReservedN w == 0) .reset
  | 0x02 => whenReserved (fieldReservedN w == 0) .config
  | 0x03 => whenReserved (fieldReservedHigh w == 0) (.setori (fieldLow w))
  | 0x04 => whenReserved (fieldReservedHigh w == 0) (.wrreg (fieldAddr w) (fieldByte w))
  | 0x06 => whenReserved (fieldReservedN w == 0) .beginStream
  | 0x07 => whenReserved (fieldReservedHigh w == 0) (.pixel (fieldLow w))
  | 0x08 => whenReserved (fieldReservedB w == 0) (.byte (fieldByte w))
  | 0x09 => whenReserved (fieldReservedN w == 0) .endStream
  | 0x0A => whenReserved (fieldReservedN w == 0) .tpoll
  | _ => .error .illegal

/-- Decoding the words of one collected command (rules R91, R101). Every one-word word0 that matches no row, a SETWIN
opcode with reserved bits set among them, is illegal by rule R100. -/
def decode : List Word → Except DecodeError Instr
  | [] => .error .noWords
  | [w0] => if w0 = setwinWord0 then .error .operandsMissing else decodeOneWord w0
  | [w0, _] => if w0 = setwinWord0 then .error .operandsMissing else .error .trailingWords
  | [w0, w1, w2] =>
    if w0 = setwinWord0 then .ok (.setwin (fieldHigh w1) (fieldLow w1) (fieldHigh w2) (fieldLow w2))
    else .error .trailingWords
  | _ => .error .trailingWords

/-- The first `n` of three words of a number whose bits 31..0 are the first word. -/
def wordsOf (w : Nat) : List Word :=
  [BitVec.ofNat 32 w, BitVec.ofNat 32 (w / 2 ^ 32), BitVec.ofNat 32 (w / 2 ^ 64)]

/-- The words of the command that the low `nbits` bits of `w` begin, all higher bits being 0. -/
def tableWords (nbits w : Nat) : List Word :=
  let ws := wordsOf (w % 2 ^ nbits)
  ws.take (commandLength (ws.headD 0))

/-- The command the decoder reads from a word numbered as spec/opcode_table.json numbers it. -/
def decodeTableWord (nbits w : Nat) : Option Instr :=
  match decode (tableWords nbits w) with
  | .ok i => some i
  | .error _ => none

/-- Format N with opcode `op` (rule R92). -/
def formatN (op : Byte) : Word := op ++ (0 : BitVec 24)

/-- Formats O and P with opcode `op` (rules R93, R96). -/
def formatHalf (op : Byte) (v : Half) : Word := op ++ (0 : Byte) ++ v

/-- Format R (rule R94). -/
def formatR (op addr val : Byte) : Word := op ++ (0 : Byte) ++ addr ++ val

/-- Format B (rule R97). -/
def formatB (op b : Byte) : Word := op ++ (0 : Half) ++ b

/-- An operand word of format W (rule R95). -/
def windowWord (x y : Half) : Word := x ++ y

/-- The words of a command (rules R92 to R98). -/
def encode : Instr → List Word
  | .reset => [formatN 0x01]
  | .config => [formatN 0x02]
  | .setori deg => [formatHalf 0x03 deg]
  | .wrreg addr val => [formatR 0x04 addr val]
  | .setwin x0 y0 x1 y1 => [formatN 0x05, windowWord x0 y0, windowWord x1 y1]
  | .beginStream => [formatN 0x06]
  | .pixel p => [formatHalf 0x07 p]
  | .byte b => [formatB 0x08 b]
  | .endStream => [formatN 0x09]
  | .tpoll => [formatN 0x0A]

/-- A row of the opcode map: mnemonic, number of words, match and mask of word0 (rule R98). -/
structure OpcodeRow where
  mnemonic : String
  words : Nat
  matchBits : Word
  mask : Word
  deriving DecidableEq, Repr

/-- The complete opcode map (rule R98). -/
def opcodeMap : List OpcodeRow :=
  [⟨"RESET", 1, 0x01000000, 0xFFFFFFFF⟩, ⟨"CONFIG", 1, 0x02000000, 0xFFFFFFFF⟩,
   ⟨"SETORI", 1, 0x03000000, 0xFFFF0000⟩, ⟨"WRREG", 1, 0x04000000, 0xFFFF0000⟩,
   ⟨"SETWIN", 3, 0x05000000, 0xFFFFFFFF⟩, ⟨"BEGIN", 1, 0x06000000, 0xFFFFFFFF⟩,
   ⟨"PIXEL", 1, 0x07000000, 0xFFFF0000⟩, ⟨"BYTE", 1, 0x08000000, 0xFFFFFF00⟩,
   ⟨"END", 1, 0x09000000, 0xFFFFFFFF⟩, ⟨"TPOLL", 1, 0x0A000000, 0xFFFFFFFF⟩]

/-- A word0 matches a row under its mask (rule R98). -/
def OpcodeRow.covers (row : OpcodeRow) (w0 : Word) : Bool := w0 &&& row.mask == row.matchBits

/-- The mnemonic of a command, as spec/opcode_table.json spells it. -/
def mnemonicOf : Instr → String
  | .reset => "RESET"
  | .config => "CONFIG"
  | .setori _ => "SETORI"
  | .wrreg _ _ => "WRREG"
  | .setwin _ _ _ _ => "SETWIN"
  | .beginStream => "BEGIN"
  | .pixel _ => "PIXEL"
  | .byte _ => "BYTE"
  | .endStream => "END"
  | .tpoll => "TPOLL"

end Sys2Proof
end

