-- ==== Sys2Proof/Machine/HostPort.lean ====
section
/-! DEFINITION. The host side of the block: which accesses are admitted (rule R71), the collection of command words
(rules R40, R91), host reads, also during BUSY (rules R48, R73), and who moves next. -/

namespace Sys2Proof.Machine

/-- Only 32-bit accesses at aligned offsets inside the 64-byte window are admitted (rules R60, R71). -/
def admitted (off bytes : Nat) : Bool := decide (bytes = 4) && decide (off % 4 = 0) && decide (off < 64)

/-- The collection of rule R91: a word accepted at CMD while no command runs. `Execute` begins with `S.busy <- 1`; the
command itself is the block's next step. -/
def collect (w : Word) (s : State) : Except Fault State :=
  if s.pend = 0 then
    if w = setwinWord0 then .ok { s with cbuf := [w], pend := 2 }
    else .ok { s with cbuf := [w], busy := true }
  else if s.pend = 1 then .ok { s with cbuf := s.cbuf ++ [w], pend := 0, busy := true }
  else if s.pend = 2 then .ok { s with cbuf := s.cbuf ++ [w], pend := 1 }
  else .error .collectorDefect

/-- `MemWrite(off, bytes, v)` (rules R40, R47, R71, R73). -/
def hostWrite (off bytes : Nat) (v : Word) (s : State) : Except Fault State :=
  if admitted off bytes = true then if off = 0 then collect v s else .ok s
  else .error .hostAccessStuck

/-! ### Reads during BUSY (rule R48) -/

/-- One of the values in the list, by a free number; `d` if the list is empty. -/
def pickFrom {α : Type} (n : Nat) (xs : List α) (d : α) : α := xs.getD (n % xs.length) d

/-- The controller states a command passes through that a command rule names (rules R48, R192). -/
def ctlDuring : Instr → List CtlState
  | .reset => [.resetting]
  | .config => [.configuring]
  | _ => []

/-- The peripheral of a command's acquisition (rules R48, R143). -/
def busDuring : Instr → Periph
  | .tpoll => .tp
  | _ => .lcd

/-- What the registers may show while a command runs: each field by a free choice among its value before (`s`), its
value after (`t`) and, for a command that is carried out, the intermediate values of rule R48. The touch result
registers are before or after as a whole: they never show a partial poll. BUSY is 1.

Where the command will stop with `waitTooShort` there is no state after it: `t` is then `s` itself, so every field shows
its value before, and the intermediate values are admitted exactly if the PREVIOUS command's result, still in `S.result`,
is OK. The spec does not say what such a read shows (DESIGN CHOICE, assumption log 4; unsafe). -/
def busyView (i : Option Instr) (s t : State) : State :=
  let n := s.busyReads
  let carriedOut := decide (t.result = .ok)
  let midCtl := match i with
    | some c => if carriedOut then ctlDuring c else []
    | none => []
  let midBus := match i with
    | some c => if carriedOut then [busDuring c] else []
    | none => []
  let touch := if Config.busyPick n 9 % 2 = 0 then s else t
  { s with
    busy := true
    ctl := pickFrom (Config.busyPick n 0) ([s.ctl, t.ctl] ++ midCtl) s.ctl
    stream := pickFrom (Config.busyPick n 1) [s.stream, t.stream] s.stream
    owner := pickFrom (Config.busyPick n 2) ([s.owner, t.owner] ++ midBus.map some) s.owner
    speed := pickFrom (Config.busyPick n 3) ([s.speed, t.speed] ++ midBus.map rated) s.speed
    errSticky := pickFrom (Config.busyPick n 4) [s.errSticky, t.errSticky] s.errSticky
    result := pickFrom (Config.busyPick n 5) [s.result, t.result] s.result
    orient := pickFrom (Config.busyPick n 6) [s.orient, t.orient] s.orient
    pend := pickFrom (Config.busyPick n 7) [s.pend, t.pend] s.pend
    winArmed := pickFrom (Config.busyPick n 8) [s.winArmed, t.winArmed] s.winArmed
    tValid := touch.tValid
    tX := touch.tX
    tY := touch.tY
    tZ1 := touch.tZ1
    tZ2 := touch.tZ2
    tPress := touch.tPress
    tXraw := touch.tXraw
    tYraw := touch.tYraw }

/-- The command in `S.cbuf`, if its words are one. -/
def currentCommand (s : State) : Option Instr :=
  match decode s.cbuf with
  | .ok i => some i
  | .error _ => none

/-- What a host read shows: the registers as they stand, or during BUSY a view of rule R48. -/
def readView (s t : State) : State := if s.busy then busyView (currentCommand s) s t else s

/-- `MemRead(off, bytes)`: the value goes to the host, and the block's state does not change (rules R71, R73). -/
def hostRead (off bytes : Nat) (s t : State) : Except Fault State :=
  if admitted off bytes = true then
    .ok { s with
      readLog := s.readLog ++ [⟨off, readRegister (readView s t) off⟩]
      busyReads := if s.busy then s.busyReads + 1 else s.busyReads }
  else .error .hostAccessStuck

/-! ### Who moves next -/

/-- The next move of the machine. -/
inductive Move where
  /-- The host, or the reset input, acts. -/
  | host (op : HostOp)
  /-- The block runs the accepted command. -/
  | command
  /-- Nothing happens: the block is idle and the host does nothing (rule R291). -/
  | idle
  deriving DecidableEq, Repr

/-- During BUSY an admitted CMD write is held and a WAITIDLE goes on reading, so the command runs; other accesses and
block reset happen at once (rules R40, R77, R274). -/
def holdsBack : HostOp → Bool
  | .write off bytes _ => admitted off bytes && decide (off = 0)
  | .read _ _ => false
  | .awaitIdle => true
  | .blockReset _ => false

/-- Who moves next (rules R77, R78). -/
def nextMove (s : State) : Move :=
  match s.hostOps with
  | [] => if s.busy then .command else .idle
  | op :: _ => if s.busy && holdsBack op then .command else .host op

/-- The host's access, or block reset, is carried out. `t` is the state in which the running command would complete,
`s` itself if none would. -/
def hostMove (op : HostOp) (t s : State) : Except Fault State :=
  match op with
  | .write off bytes v => hostWrite off bytes v s
  | .read off bytes => hostRead off bytes s t
  | .awaitIdle => .ok s
  | .blockReset k => .ok (blockReset (if s.busy then abandonAfter k t.trace s else s))

/-- The state without the host's next access. -/
def State.dropHostOp (s : State) : State := { s with hostOps := s.hostOps.drop 1 }

/-- The words of a command stand in `S.cbuf`, accepted, and the host waits for its completion: the state from which the
next step executes them (rules R24, R91, R106). -/
def acceptedWith (words : List Word) (s : State) : State :=
  { s with cbuf := words, pend := 0, busy := true, hostOps := .awaitIdle :: s.hostOps }

end Sys2Proof.Machine
end

