-- ==== Sys2Proof/Machine/Execute.lean ====
section
/-! DEFINITION. `Execute(S.cbuf)` (rules R91, R101): the accepted words are decoded and the command runs to its end as
one transition (rule R78, decision D4). -/

namespace Sys2Proof.Machine

/-- The accepted command runs; a word0 that matches no row completes with ILLEGAL_COMMAND (rules R100, R264). -/
def runCommand (s : State) : Host.Outcome State Fault Refusal :=
  match decode s.cbuf with
  | .ok i => exec i s
  | .error .illegal => raise .illegalCommand s
  | .error _ => .fault .collectorDefect

/-- The state in which the running command would complete; `s` itself if it would not, which is a choice for reads during
BUSY (DESIGN CHOICE, assumption log 4) and for block reset (assumption log 8). -/
def completionOf (s : State) : State :=
  match runCommand s with
  | .next t => t
  | _ => s

/-- An outcome of a move that is no command. -/
def moveOutcome (r : Except Fault State) : Host.Outcome State Fault Refusal :=
  match r with
  | .ok s => .next s
  | .error f => .fault f

end Sys2Proof.Machine
end

