-- ==== Sys2Proof/Machine/Step.lean ====
section
/-! DEFINITION. One step of the machine: the block runs the command it has accepted, or the host makes its next access,
or nothing happens; and where the step fetches a command from. -/

namespace Sys2Proof.Machine

/-- One step (rules R5, R77, R78, R291). -/
def step (s : State) : Host.Outcome State Fault Refusal :=
  if configLegal s.cfg = true then
    match nextMove s with
    | .command => runCommand s
    | .host op => moveOutcome (hostMove op (completionOf s).dropHostOp s.dropHostOp)
    | .idle => .next s
  else .refused .configurationRefused

/-- `s` with the words of a command where the next step takes its command from: `S.cbuf`. -/
def State.withFetchWord (s : State) (nbits w : Nat) : State := acceptedWith (tableWords nbits w) s

end Sys2Proof.Machine
end

