-- ==== Sys2Proof/WellFormed.lean ====
section
/-! DEFINITION. Which source lines have an encoding (rule R105: "An operand that does not fit its field is an
assembly error: it has no encoding"). A decoded command (`Instr`) carries its operands at their exact widths, so
every `Instr` is well formed by its type. -/

namespace Sys2Proof

/-- An 8-bit operand field: 0..255 (rule R105). -/
def fitsByte (n : Nat) : Bool := decide (n < 2 ^ 8)

/-- A 16-bit operand field: 0..65535 (rule R105). -/
def fitsHalf (n : Nat) : Bool := decide (n < 2 ^ 16)

/-- A raw word written to CMD: 32 bits (rule R106). -/
def fitsWord (n : Nat) : Bool := decide (n < 2 ^ 32)

/-- The four window coordinates of SETWIN and FLUSH (rule R105: "each 0..65535"). -/
def fitsWindow (x0 y0 x1 y1 : Nat) : Bool := fitsHalf x0 && fitsHalf y0 && fitsHalf x1 && fitsHalf y1

/-- Every operand of the line fits its field (rule R105). DEG is any 16-bit number here: that only 0, 90, 180 and 270
are accepted is a guard of SETORI (rule R99), not a matter of encoding. -/
def Line.wellFormed : Line → Bool
  | .reset | .config | .beginStream | .endStream | .tpoll => true
  | .setori deg => fitsHalf deg
  | .wrreg addr val => fitsByte addr && fitsByte val
  | .setwin x0 y0 x1 y1 => fitsWindow x0 y0 x1 y1
  | .pixel p => fitsHalf p
  | .byte b => fitsByte b
  | .rawWord w => fitsWord w
  | .waitIdle => true
  | .readReg _ => true
  | .boot deg => fitsHalf deg
  | .flush x0 y0 x1 y1 pixels => fitsWindow x0 y0 x1 y1 && pixels.all fitsHalf
  | .flushLe x0 y0 x1 y1 buffer =>
    fitsWindow x0 y0 x1 y1 && buffer.all (fun b => fitsByte b.1 && fitsByte b.2)
  | .poll => true

end Sys2Proof
end

