-- ==== Sys2Proof/Machine/HostProgram.lean ====
section
/-! DEFINITION. What the host does for a source line (rules R105, R106, R110): the pseudo-commands expand to commands,
and every command to the writes of its words at CMD. -/

namespace Sys2Proof.Machine

/-- `.word w`: one write to CMD (rule R106). -/
def writeCmd (w : Word) : HostOp := .write 0x00 4 w

/-- The writes of a command's words, first word first (rules R91, R105). -/
def issue (i : Instr) : List HostOp := (encode i).map writeCmd

/-- A command and the WAITIDLE after it (rule R110). -/
def issueAndWait (i : Instr) : List HostOp := issue i ++ [.awaitIdle]

/-- `READ reg`: one host read of the named register (rule R106). -/
def readOp (r : HostReg) : HostOp := .read (registerOffset r) 4

/-- `BOOT o` (rules R110, R296). -/
def bootOps (deg : Half) : List HostOp :=
  issueAndWait .reset ++ issueAndWait .config ++ issueAndWait (.setori deg)

/-- `FLUSH` (rules R110, R180): one window, one BEGIN, the pixels, one END. -/
def flushOps (x0 y0 x1 y1 : Half) (pixels : List Half) : List HostOp :=
  issueAndWait (.setwin x0 y0 x1 y1) ++ issueAndWait .beginStream ++
    pixels.flatMap (fun p => issueAndWait (.pixel p)) ++ issueAndWait .endStream

/-- `POLL` (rule R110). -/
def pollOps : List HostOp :=
  issueAndWait .tpoll ++ [readOp .touchStatus, readOp .touchX, readOp .touchY]

/-- An operand that fits its 16-bit field, as that field. -/
def half (n : Nat) : Half := BitVec.ofNat 16 n

/-- An operand that fits its 8-bit field, as that field. -/
def byte8 (n : Nat) : Byte := BitVec.ofNat 8 n

/-- The host's actions for a line whose operands fit (rules R105, R106, R110). -/
def lineOps : Line → List HostOp
  | .reset => issue .reset
  | .config => issue .config
  | .setori deg => issue (.setori (half deg))
  | .wrreg addr val => issue (.wrreg (byte8 addr) (byte8 val))
  | .setwin x0 y0 x1 y1 => issue (.setwin (half x0) (half y0) (half x1) (half y1))
  | .beginStream => issue .beginStream
  | .pixel p => issue (.pixel (half p))
  | .byte b => issue (.byte (byte8 b))
  | .endStream => issue .endStream
  | .tpoll => issue .tpoll
  | .rawWord w => [writeCmd (BitVec.ofNat 32 w)]
  | .waitIdle => [.awaitIdle]
  | .readReg r => [readOp r]
  | .boot deg => bootOps (half deg)
  | .flush x0 y0 x1 y1 pixels => flushOps (half x0) (half y0) (half x1) (half y1) (pixels.map half)
  | .flushLe x0 y0 x1 y1 buffer =>
    flushOps (half x0) (half y0) (half x1) (half y1)
      (buffer.map (fun b => pixelOfBuffer (byte8 b.1) (byte8 b.2)))
  | .poll => pollOps

/-- Assembling a line: "An operand that does not fit its field is an assembly error" (rule R105). -/
def assembleLine (l : Line) : Option (List HostOp) := if l.wellFormed then some (lineOps l) else none

/-- The host's actions for a whole program, if every line assembles. -/
def assemble : List Line → Option (List HostOp)
  | [] => some []
  | l :: rest =>
    match assembleLine l, assemble rest with
    | some a, some b => some (a ++ b)
    | _, _ => none

end Sys2Proof.Machine
end

