-- ==== Sys2Proof/Safety.lean ====
section
/-! DEFINITION. The terms in which claims about the block are stated: the wire events each command's rule lists, the
invariants the rules keep (rules R36 to R39), the discipline of the wire as a monitor that knows nothing of the block
(rules R36, R37, R130, R143, R191), the init tables of rule R199, and commands and steps run one after the other
(rule R78). -/

namespace Sys2Proof.Machine

/-! ### Wire events (rules R151, R155, R195, R222, R223) -/

/-- One display bracket of two bytes. -/
def bracketEvents (first second : Byte) : List Event :=
  [.cs .lcd false, .xfer .lcd first none, .xfer .lcd second none, .cs .lcd true]

/-- The eight events of `RegWrite(a, v)` (rule R151). -/
def regWriteEvents (c : Config) (a v : Byte) : List Event := bracketEvents (rsp c) a ++ bracketEvents (dsp c) v

/-- The events of register writes one after the other. -/
def regWritesEvents (c : Config) (ws : List (Byte × Byte)) : List Event :=
  ws.flatMap (fun w => regWriteEvents c w.1 w.2)

/-- The 64 events of `WinWrite(x0, y0, x1, y1)` (rule R155). -/
def windowEvents (c : Config) (x0 y0 x1 y1 : Half) : List Event :=
  regWritesEvents c (windowWrites c.winReg x0 y0 x1 y1)

/-- The events of one init step, in orientation `o` (rule R195). -/
def initStepEvents (c : Config) (o : BitVec 2) : InitStep → List Event
  | .wr _ a v => regWriteEvents c a v
  | .dly n => [.wait n]
  | .win => windowEvents c 0 0 (logicalWidth o - 1) (logicalHeight o - 1)

/-- The events of an init table, in order (rule R201). -/
def initTableEvents (c : Config) (o : BitVec 2) (t : List InitStep) : List Event := t.flatMap (initStepEvents c o)

/-- The wire events of RESET after its acquisition (rule R190). -/
def resetPulseEvents : List Event := [.cs .lcd true, .rst false, .wait 50, .rst true, .wait 120]

/-- The events BEGIN appends (rule R160). -/
def beginEvents (c : Config) : List Event :=
  .speed .disp :: bracketEvents (rsp c) gramCmd ++ [.cs .lcd false, .xfer .lcd (dsp c) none]

/-- The events PIXEL appends: high byte first (rule R170). -/
def pixelEvents (p : Half) : List Event := [.xfer .lcd (highByte p) none, .xfer .lcd (lowByte p) none]

/-- The `n`-th of the MISO bytes the touch controller answers with from here on (rule R130). -/
def misoByte (s : State) (n : Nat) : Byte :=
  (s.miso[n]?).getD (Config.misoDraw (s.misoDraws + (n - s.miso.length)))

/-- The events of `AdcRead8(ch)`: `i` answers the command byte, `r` is the response (rule R222). -/
def adc8Events (c : Config) (ch : Channel) (i r : Byte) : List Event :=
  [.cs .tp false, .xfer .tp (touchCmd c ch .bits8) (some i), .xfer .tp c.fillByte (some r), .cs .tp true]

/-- The events of `AdcRead12(ch)` (rule R223). -/
def adc12Events (c : Config) (ch : Channel) (i hi lo : Byte) : List Event :=
  [.cs .tp false, .xfer .tp (touchCmd c ch .bits12) (some i), .xfer .tp c.fillByte (some hi),
   .xfer .tp c.fillByte (some lo), .cs .tp true]

/-- The Z1 and Z2 samples the next poll takes, and its pressure (rules R222, R225, R240). -/
def pollZ1 (s : State) : Byte := misoByte s 1
def pollZ2 (s : State) : Byte := misoByte s 3
def pollPressure (s : State) : BitVec 7 := pressure (pollZ1 s) (pollZ2 s)

/-- The raw X and Y samples the next poll keeps, if it finds contact: the second of each axis (rules R223, R224). -/
def pollXraw (s : State) : Raw := rawSample (misoByte s 8) (misoByte s 9)
def pollYraw (s : State) : Raw := rawSample (misoByte s 14) (misoByte s 15)

/-- The nine events of a poll without contact, and the first nine of one with contact (rule R240). -/
def probeEvents (s : State) : List Event :=
  .speed .touch :: adc8Events s.cfg .z1 (misoByte s 0) (pollZ1 s) ++ adc8Events s.cfg .z2 (misoByte s 2) (pollZ2 s)

/-- The twenty events of the four 12-bit conversions (rules R224, R240). -/
def axisEvents (s : State) : List Event :=
  adc12Events s.cfg .x (misoByte s 4) (misoByte s 5) (misoByte s 6) ++
    adc12Events s.cfg .x (misoByte s 7) (misoByte s 8) (misoByte s 9) ++
    adc12Events s.cfg .y (misoByte s 10) (misoByte s 11) (misoByte s 12) ++
    adc12Events s.cfg .y (misoByte s 13) (misoByte s 14) (misoByte s 15)

/-! ### States of the bus -/

/-- No stream is open and nobody holds the bus (rule R38). -/
def BusIdle (s : State) : Prop :=
  s.stream = false ∧ s.owner = none ∧ s.csLcdN = true ∧ s.csTpN = true

/-- A pixel stream is open: the display holds the bus and stays selected at its speed (rules R37, R38). -/
def StreamOpen (s : State) : Prop :=
  s.stream = true ∧ s.owner = some .lcd ∧ s.csLcdN = false ∧ s.csTpN = true ∧ s.speed = .disp

/-- The delay timer does not run faster than the true rate (rule R191). -/
def WaitsLongEnough (c : Config) : Prop := c.trueTicksPerMs ≤ c.ticksPerMs

/-- The words collected fit what is still expected, and the words of an accepted command are one whole command or one
illegal word0 (rules R25, R91). -/
def CollectorSound (s : State) : Prop :=
  (s.busy = false ∧ s.pend = 0 ∧ s.cbuf = []) ∨
  (s.busy = false ∧ s.pend = 2 ∧ s.cbuf = [setwinWord0]) ∨
  (s.busy = false ∧ s.pend = 1 ∧ ∃ w, s.cbuf = [setwinWord0, w]) ∨
  (s.busy = true ∧ s.pend = 0 ∧ ((∃ w, w ≠ setwinWord0 ∧ s.cbuf = [w]) ∨ ∃ v w, s.cbuf = [setwinWord0, v, w]))

/-- The invariant of the block between two steps: rules R36 to R38 (through `BusIdle` and `StreamOpen`), and what the
other rules say no state ever shows. -/
structure BlockInv (s : State) : Prop where
  /-- Rules R36 to R38. -/
  bus : BusIdle s ∨ (StreamOpen s ∧ s.ctl = .ready)
  /-- Rule R192: RESETTING is seen only while a RESET executes. -/
  notResetting : s.ctl ≠ .resetting
  /-- Rule R30: a window is armed in READY only, and BEGIN takes it. -/
  armed : s.winArmed = true → s.ctl = .ready ∧ s.stream = false
  /-- Rule R269: code 2 is never produced. -/
  noBusFailure : s.result ≠ .busTransactionFailure
  /-- Rule R262: an error result has set the sticky flag. -/
  sticky : s.result ≠ .ok → s.errSticky = true
  /-- Rules R25, R91. -/
  collector : CollectorSound s
  /-- Rule R44, decision D22: without contact the coordinates and raw samples are 0. -/
  noContactZero : s.tValid = false → s.tX = 0 ∧ s.tY = 0 ∧ s.tXraw = 0 ∧ s.tYraw = 0
  /-- Rules R132, R190: the reset line is released between commands. -/
  resetReleased : s.rstN = true
  /-- Rule R277: the delay timer is idle between commands. -/
  timerIdle : s.timer = 0
  /-- Rule R140: SCLK idles low (PRESUMED, assumption log 5). -/
  clockLow : s.sclk = false

/-! ### The discipline of the wire, as a monitor of the trace alone -/

/-- What a monitor of the wire knows: the speed, the three pins, and how many ms must still pass before the reset line
may rise or the display may be selected (rule R191). -/
structure WireMonitor where
  speed : Speed
  csLcdN : Bool
  csTpN : Bool
  rstN : Bool
  owed : Nat
  deriving DecidableEq, Repr

/-- The wire after block reset (rules R52, R290). -/
def WireMonitor.start : WireMonitor := ⟨.disp, true, true, true, 0⟩

/-- One event, if the wire's rules allow it. The speed is programmed only with nothing selected (rule R143); a
peripheral is selected only at its rated speed, with nothing else selected (rules R36, R37, R128), and the display only
120 ms after its reset was released (rule R191); a byte moves only to the one selected peripheral, and only the touch
controller's MISO is sampled (rule R130); the reset line is driven with nothing selected, and rises after at least
50 ms (rules R190, R191). -/
def WireMonitor.next (m : WireMonitor) (e : Event) : Option WireMonitor :=
  match e with
  | .speed v => if m.csLcdN && m.csTpN then some { m with speed := v } else none
  | .cs .lcd false =>
    if m.csLcdN && m.csTpN && decide (m.speed = .disp) && m.rstN && decide (m.owed = 0) then
      some { m with csLcdN := false } else none
  | .cs .tp false =>
    if m.csLcdN && m.csTpN && decide (m.speed = .touch) then some { m with csTpN := false } else none
  | .cs .lcd true => some { m with csLcdN := true }
  | .cs .tp true => some { m with csTpN := true }
  | .xfer .lcd _ i =>
    if !m.csLcdN && m.csTpN && decide (m.speed = .disp) && i.isNone then some m else none
  | .xfer .tp _ i =>
    if m.csLcdN && !m.csTpN && decide (m.speed = .touch) && i.isSome then some m else none
  | .rst false => if m.csLcdN && m.csTpN then some { m with rstN := false, owed := 50 } else none
  | .rst true =>
    if m.csLcdN && m.csTpN && !m.rstN && decide (m.owed = 0) then some { m with rstN := true, owed := 120 }
    else none
  | .wait n => some { m with owed := m.owed - n }

/-- The monitor over a list of events; `none` if one of them is not allowed. -/
def WireMonitor.run (m : WireMonitor) : List Event → Option WireMonitor
  | [] => some m
  | e :: rest =>
    match m.next e with
    | some m' => WireMonitor.run m' rest
    | none => none

/-- The epoch's trace obeys the wire's discipline and leaves the wire as the state says, and so did the trace of every
ended epoch, a command cut short by block reset included (rule R290; assumption log 8 for how it is cut). -/
def WireDiscipline (s : State) : Prop :=
  WireMonitor.start.run s.trace = some ⟨s.speed, s.csLcdN, s.csTpN, s.rstN, 0⟩ ∧
    ∀ ended ∈ s.epochs, (WireMonitor.start.run ended).isSome = true

/-! ### The init tables that rule R199 admits -/

/-- Rule R199, written out. The four power stages stand in order, each settled at least 5 ms (item 1); before them
stands a write of each early phase (item 2); after them stand the seven steps of item 3, with their delays, and nothing
else; no other step writes register 0x1F (item 4) or is a `WIN`. The phases are the table's own words (assumption
log 6). -/
def InitTableRules (t : List InitStep) : Prop :=
  ∃ (before gap1 gap2 gap3 : List InitStep) (p1 p2 p3 p4 : InitPhase) (n1 n2 n3 n4 mEnable mFull : Nat)
    (aColour vColour aPanel vPanel aEnable vEnable aFull vFull : Byte),
    t = before ++ [.wr p1 0x1F 0x88, .dly n1] ++ gap1 ++ [.wr p2 0x1F 0x80, .dly n2] ++ gap2 ++
      [.wr p3 0x1F 0x90, .dly n3] ++ gap3 ++ [.wr p4 0x1F 0xD0, .dly n4] ++
      [.wr .colourMode65k aColour vColour, .wr .panelCharacteristic aPanel vPanel, .win,
       .wr .displayEnable aEnable vEnable, .dly mEnable, .wr .displayFullEnable aFull vFull, .dly mFull] ∧
    (5 ≤ n1 ∧ 5 ≤ n2 ∧ 5 ≤ n3 ∧ 5 ≤ n4 ∧ 50 ≤ mEnable ∧ 5 ≤ mFull) ∧
    (∀ phase ∈ [InitPhase.drivingStrength, .trim, .oscillatorStart, .wake], ∃ a v, .wr phase a v ∈ before) ∧
    (∀ step ∈ before ++ gap1 ++ gap2 ++ gap3, step ≠ .win ∧ ∀ p v, step ≠ .wr p 0x1F v) ∧
    aColour ≠ 0x1F ∧ aPanel ≠ 0x1F ∧ aEnable ≠ 0x1F ∧ aFull ≠ 0x1F

/-! ### The host's place in a step -/

/-- Nothing the host does next comes before the running command's completion (rules R40, R106): it does nothing, waits
for it, or writes CMD, which is held. -/
def HostWaits (s : State) : Prop := ∀ op ∈ s.hostOps.head?, holdsBack op = true

/-- The block is about to run the command `i` it has accepted. -/
def Running (i : Instr) (s : State) : Prop := s.busy = true ∧ HostWaits s ∧ decode s.cbuf = .ok i

/-- The host is about to assert the block's reset input (rule R290). -/
def BlockResetNext (s : State) : Prop := ∃ k rest, s.hostOps = .blockReset k :: rest

/-- The next host access, if there is one, is admitted (rule R71). -/
def NextAccessAdmitted (s : State) : Prop :=
  ∀ op ∈ s.hostOps.head?, match op with
    | .write off bytes _ => bytes = 4 ∧ off % 4 = 0 ∧ off < 64
    | .read off bytes => bytes = 4 ∧ off % 4 = 0 ∧ off < 64
    | .awaitIdle => True
    | .blockReset _ => True

/-- The touch result registers of two states agree (rule R32). -/
def SameTouch (s t : State) : Prop :=
  t.tValid = s.tValid ∧ t.tX = s.tX ∧ t.tY = s.tY ∧ t.tZ1 = s.tZ1 ∧ t.tZ2 = s.tZ2 ∧ t.tPress = s.tPress ∧
    t.tXraw = s.tXraw ∧ t.tYraw = s.tYraw

/-- The MISO answers to one poll with contact: the six bytes a poll keeps, and ten it discards (rules R222 to R224). -/
def pollScript (noise : Nat → Byte) (z1 z2 xh xl yh yl : Byte) : List Byte :=
  [noise 0, z1, noise 1, z2, noise 2, noise 3, noise 4, noise 5, xh, xl, noise 6, noise 7, noise 8, noise 9, yh, yl]

/-! ### Commands one after the other -/

/-- Commands run in order, each to completion before the next begins (rule R78). -/
def runCommands : List Instr → State → Host.Outcome State Fault Refusal
  | [], s => .next s
  | i :: rest, s =>
    match exec i s with
    | .next t => runCommands rest t
    | o => o

/-- `n` steps of the machine, one after the other. -/
def runSteps : Nat → State → Host.Outcome State Fault Refusal
  | 0, s => .next s
  | n + 1, s =>
    match step s with
    | .next t => runSteps n t
    | o => o

end Sys2Proof.Machine
end

