-- ==== Sys2Proof/Certificates/Slice0/Obligations.lean ====
section
/-! DEFINITION. The statements for the provers. Where a command completes, the whole next state is given; the two free
levels `c` and `m` are SCLK's and MOSI's (rule R33). -/

open Sys2Proof Sys2Proof.Machine

/-! ### The step -/

/-- Rules R77, R78, R91: the step of a state whose accepted words decode to `i`, while the host waits, is `exec i`; the
step adds nothing around it. -/
def Obligations.StepRunsAcceptedCommand : Prop :=
  ∀ (i : Instr) (s : State), configLegal s.cfg = true → Running i s → step s = exec i s

/-- Rules R100, R264: a word0 that matches no row of the opcode map is consumed as one word and completes with
ILLEGAL_COMMAND, whatever the controller and stream state, and changes nothing else. -/
def Obligations.IllegalWordCompletes : Prop :=
  ∀ (w0 : Word) (s : State), configLegal s.cfg = true → s.busy = true → HostWaits s → s.cbuf = [w0] →
    (∀ row ∈ opcodeMap, row.covers w0 = false) →
    step s = .next { s with result := .illegalCommand, errSticky := true, cbuf := [], busy := false }

/-- Rules R5, R60, R199: a configuration that breaks a constraint is refused, whatever the state. That the model refuses
it in every step (assumption log 15), and how rule R199 is read in `InitTableRules` (assumption log 6), are the model's
choices. -/
def Obligations.BrokenConfigurationRefused : Prop :=
  ∀ (s : State),
    (s.cfg.xMax.toNat ≤ s.cfg.xMin.toNat ∨ s.cfg.yMax.toNat ≤ s.cfg.yMin.toNat ∨
      s.cfg.dispSpeedHz ≤ s.cfg.touchSpeedHz ∨ s.cfg.touchSpeedHz = 0 ∨ s.cfg.ticksPerMs = 0 ∨
      s.cfg.initOrientation ∉ [0, 90, 180, 270] ∨ s.cfg.hostBase % 64 ≠ 0 ∨ ¬ InitTableRules s.cfg.initTable) →
    step s = .refused .configurationRefused

/-- Rule R199: the check of an init table admits exactly the tables that the rule's four items describe. How items 2 and
3 are read (a write's phase is the table's own word; item 3's steps stand with nothing between them; one `WIN` in the
table) is the model's choice, assumption log 6. -/
def Obligations.InitTableCheckedAsRuleSays : Prop :=
  ∀ (t : List InitStep), initTableLegal t = true ↔ InitTableRules t

/-- Rule R291: with no command accepted and no host access, nothing happens. -/
def Obligations.IdleBlockRunsNothing : Prop :=
  ∀ (s : State), configLegal s.cfg = true → s.busy = false → s.hostOps = [] → step s = .next s

/-! ### Decoding -/

/-- Rules R92 to R101: decoding the words of a command gives it back, with every operand at every value. -/
def Obligations.DecodeOfEncode : Prop := ∀ (i : Instr), decode (encode i) = .ok i

/-- Rules R92 to R101: words that decode are the encoding of what they decode to: no bit is dropped or ignored. -/
def Obligations.EncodeOfDecode : Prop := ∀ (ws : List Word) (i : Instr), decode ws = .ok i → encode i = ws

/-- Rule R98: "A word0 is legal exactly when it matches one row under its mask." A word0 begins a command, with some
operand words after it, exactly if one row of the map covers it, and then no second row does; the command has that
row's mnemonic and number of words. -/
def Obligations.LegalExactlyWhenOneRowMatches : Prop :=
  ∀ (w0 : Word), ((∃ ops i, decode (w0 :: ops) = .ok i) ↔ ∃ row ∈ opcodeMap, row.covers w0 = true) ∧
    (∀ r1 ∈ opcodeMap, ∀ r2 ∈ opcodeMap, r1.covers w0 = true → r2.covers w0 = true → r1 = r2) ∧
    ∀ ops i, decode (w0 :: ops) = .ok i → ∀ row ∈ opcodeMap, row.covers w0 = true →
      row.mnemonic = mnemonicOf i ∧ row.words = ops.length + 1

/-- Rules R98, R101: words written out from the encodings decode to the commands they stand for. -/
def Obligations.WrittenOutWordsDecode : Prop :=
  decode [0x0300010E] = .ok (.setori 270) ∧ decode [0x04001705] = .ok (.wrreg 0x17 0x05) ∧
  decode [0x05000000, 0x000A0014, 0x000B0014] = .ok (.setwin 10 20 11 20) ∧
  decode [0x0700F800] = .ok (.pixel 0xF800) ∧ decode [0x080000AB] = .ok (.byte 0xAB) ∧
  decode [0x0A000000] = .ok .tpoll ∧ decode [0x03010000] = .error .illegal ∧ decode [0x05000001] = .error .illegal

/-! ### Collection and the host port -/

/-- Rules R25, R91, R307: a word written to CMD while no command runs. With nothing collected, SETWIN's word0 waits for
two operand words, and any other word is a whole command and is accepted; the two words after a SETWIN's word0 are its
operands, whatever they hold, and the second completes the command. -/
def Obligations.CommandWordsCollected : Prop :=
  ∀ (w : Word) (rest : List HostOp) (s : State), configLegal s.cfg = true → s.busy = false →
    s.hostOps = .write 0 4 w :: rest →
    (s.pend = 0 → w = 0x05000000 → step s = .next { s with hostOps := rest, cbuf := [w], pend := 2 }) ∧
    (s.pend = 0 → w ≠ 0x05000000 → step s = .next { s with hostOps := rest, cbuf := [w], busy := true }) ∧
    (s.pend = 2 → step s = .next { s with hostOps := rest, cbuf := s.cbuf ++ [w], pend := 1 }) ∧
    (s.pend = 1 → step s = .next { s with hostOps := rest, cbuf := s.cbuf ++ [w], pend := 0, busy := true })

/-- Rule R40: while BUSY = 1 a write to CMD is held, not accepted: the step runs the command, and the write is still
the host's next access after it. -/
def Obligations.BusyHoldsCommandWrite : Prop :=
  ∀ (w : Word) (rest : List HostOp) (i : Instr) (s t : State), configLegal s.cfg = true → s.busy = true →
    s.hostOps = .write 0 4 w :: rest → decode s.cbuf = .ok i → step s = .next t →
    exec i s = .next t ∧ t.hostOps = .write 0 4 w :: rest ∧ t.busy = false

/-- Rules R71, U9: an access of another width, at a misaligned offset or outside the window is stuck. -/
def Obligations.OtherAccessesStuck : Prop :=
  ∀ (off bytes : Nat) (v : Word) (rest : List HostOp) (s : State), configLegal s.cfg = true →
    (bytes ≠ 4 ∨ off % 4 ≠ 0 ∨ 64 ≤ off) →
    (s.hostOps = .write off bytes v :: rest ∨ s.hostOps = .read off bytes :: rest) →
    step s = .fault .hostAccessStuck

/-- Rule R47: reads of offsets 0x20 to 0x3C return 0, also during BUSY, and writes to them and to the read-only
registers are ignored. -/
def Obligations.ReservedAndReadOnlyOffsets : Prop :=
  ∀ (off : Nat) (v : Word) (rest : List HostOp) (s : State), configLegal s.cfg = true → off % 4 = 0 → off < 64 →
    (0 < off → s.hostOps = .write off 4 v :: rest → step s = .next { s with hostOps := rest }) ∧
    (0x20 ≤ off → s.hostOps = .read off 4 :: rest → ∃ n, step s =
      .next { s with hostOps := rest, readLog := s.readLog ++ [⟨off, 0⟩], busyReads := n })

/-- Rules R72, R73: a host read with BUSY = 0 returns its register's value as it stands and changes nothing else. -/
def Obligations.IdleReadReturnsRegister : Prop :=
  ∀ (off : Nat) (rest : List HostOp) (s : State), configLegal s.cfg = true → s.busy = false → off % 4 = 0 →
    off < 64 → s.hostOps = .read off 4 :: rest →
    step s = .next { s with hostOps := rest, readLog := s.readLog ++ [⟨off, readRegister s off⟩] }

/-- Rules R48, R72: a host read during BUSY changes nothing but the host's view. BUSY reads 1. Every other field of
STATUS shows its value before or after the command, or, for a command that is carried out, the intermediate value a rule
names: STATE RESETTING during RESET and CONFIGURING during CONFIG, OWNER and SPEED of the command's acquisition.
GEOMETRY and the touch registers are those of before or after, never of a partial poll. (That a command that raises
shows no intermediate value is DEDUCED, assumption log 4; which of the values a read shows is free there. For a command
that will stop with `waitTooShort`, `completionOf s` is `s`: it counts as carried out exactly if the previous command's
result is OK, which is the model's choice, DESIGN CHOICE in assumption log 4.) -/
def Obligations.BusyReadAdmitsOnlyNamedValues : Prop :=
  ∀ (off : Nat) (rest : List HostOp) (s : State), configLegal s.cfg = true → s.busy = true → off % 4 = 0 →
    off < 64 → s.hostOps = .read off 4 :: rest →
    ∃ v, step s = .next { s with
        hostOps := rest
        readLog := s.readLog ++ [⟨off, v⟩]
        busyReads := s.busyReads + 1 } ∧
      (off = 0x04 →
        v.getLsbD 2 = true ∧
        (v.extractLsb' 0 2 = ctlCode s.ctl ∨ v.extractLsb' 0 2 = ctlCode (completionOf s).ctl ∨
          ((completionOf s).result = .ok ∧
            ((decode s.cbuf = .ok .reset ∧ v.extractLsb' 0 2 = 1) ∨
              (decode s.cbuf = .ok .config ∧ v.extractLsb' 0 2 = 2)))) ∧
        (v.getLsbD 3 = s.stream ∨ v.getLsbD 3 = (completionOf s).stream) ∧
        (v.extractLsb' 4 2 = ownerCode s.owner ∨ v.extractLsb' 4 2 = ownerCode (completionOf s).owner ∨
          ∃ i, decode s.cbuf = .ok i ∧ (completionOf s).result = .ok ∧
            v.extractLsb' 4 2 = if i = .tpoll then 2 else 1) ∧
        (v.extractLsb' 6 1 = speedCode s.speed ∨ v.extractLsb' 6 1 = speedCode (completionOf s).speed ∨
          ∃ i, decode s.cbuf = .ok i ∧ (completionOf s).result = .ok ∧
            v.extractLsb' 6 1 = if i = .tpoll then 1 else 0) ∧
        (v.getLsbD 7 = s.errSticky ∨ v.getLsbD 7 = (completionOf s).errSticky) ∧
        (v.extractLsb' 8 4 = resultCode s.result ∨ v.extractLsb' 8 4 = resultCode (completionOf s).result) ∧
        (v.extractLsb' 12 2 = s.orient ∨ v.extractLsb' 12 2 = (completionOf s).orient) ∧
        (v.extractLsb' 14 2 = s.pend ∨ v.extractLsb' 14 2 = (completionOf s).pend) ∧
        (v.getLsbD 16 = s.winArmed ∨ v.getLsbD 16 = (completionOf s).winArmed) ∧
        v.extractLsb' 17 15 = 0) ∧
      (off ∈ [0x08, 0x0C, 0x10, 0x14, 0x18, 0x1C] →
        v = readRegister s off ∨ v = readRegister (completionOf s) off) ∧
      (off = 0x00 ∨ 0x20 ≤ off → v = 0)

/-- Rules R23, R27, R28, R40 to R46, R260: the fields of STATUS, GEOMETRY and the touch registers stand at their bits
with the rules' codes, the reserved bits read 0, and CMD reads 0. -/
def Obligations.HostRegisterFieldsInPlace : Prop :=
  [CtlState.unpowered, .resetting, .configuring, .ready].map ctlCode = [0, 1, 2, 3] ∧
  [none, some Periph.lcd, some .tp].map ownerCode = [0, 1, 2] ∧ [Speed.disp, .touch].map speedCode = [0, 1] ∧
  [Result.ok, .invalidOrientation, .busTransactionFailure, .wrongState, .busConflict, .illegalCommand].map
    resultCode = [0, 1, 2, 3, 4, 5] ∧
  ∀ (s : State),
    (readRegister s 0x04).extractLsb' 0 2 = ctlCode s.ctl ∧
    (readRegister s 0x04).getLsbD 2 = s.busy ∧ (readRegister s 0x04).getLsbD 3 = s.stream ∧
    (readRegister s 0x04).extractLsb' 4 2 = ownerCode s.owner ∧
    (readRegister s 0x04).extractLsb' 6 1 = speedCode s.speed ∧
    (readRegister s 0x04).getLsbD 7 = s.errSticky ∧
    (readRegister s 0x04).extractLsb' 8 4 = resultCode s.result ∧
    (readRegister s 0x04).extractLsb' 12 2 = s.orient ∧ (readRegister s 0x04).extractLsb' 14 2 = s.pend ∧
    (readRegister s 0x04).getLsbD 16 = s.winArmed ∧ (readRegister s 0x04).extractLsb' 17 15 = 0 ∧
    (readRegister s 0x08).extractLsb' 0 16 = logicalWidth s.orient ∧
    (readRegister s 0x08).extractLsb' 16 16 = logicalHeight s.orient ∧
    (readRegister s 0x0C).getLsbD 0 = s.tValid ∧ (readRegister s 0x0C).extractLsb' 1 7 = 0 ∧
    (readRegister s 0x0C).extractLsb' 8 7 = s.tPress ∧ (readRegister s 0x0C).extractLsb' 15 17 = 0 ∧
    readRegister s 0x10 = s.tX ∧ readRegister s 0x14 = s.tY ∧
    (readRegister s 0x18).extractLsb' 0 8 = s.tZ1 ∧ (readRegister s 0x18).extractLsb' 8 8 = s.tZ2 ∧
    (readRegister s 0x18).extractLsb' 16 16 = 0 ∧
    (readRegister s 0x1C).extractLsb' 0 12 = s.tXraw ∧ (readRegister s 0x1C).extractLsb' 12 4 = 0 ∧
    (readRegister s 0x1C).extractLsb' 16 12 = s.tYraw ∧ (readRegister s 0x1C).extractLsb' 28 4 = 0 ∧
    readRegister s 0x00 = 0

/-! ### Block reset -/

/-- Rules R5, R41, R42, R52, R277: the values block reset leaves, whatever the parameters: the orientation is the code
of `INIT_ORIENTATION`, the timer is idle, every other element is as the table says; and the machine's reset state is
that of the default parameters, with STATUS reading 0 and GEOMETRY 240 by 320. The parameters that are OPEN hold the
model's values, assumption log 1 (DESIGN CHOICE), and the environment's fields those of log entries 2 and 3. -/
def Obligations.ResetLeavesRuleValues : Prop :=
  (∀ (c : Config) (s : State), s = State.resetWith c →
    s.cfg = c ∧ s.ctl = .unpowered ∧ s.busy = false ∧ s.pend = 0 ∧ s.cbuf = [] ∧ s.stream = false ∧
    s.owner = none ∧ s.speed = .disp ∧
    (∀ (deg : Half) (code : BitVec 2), deg.toNat = c.initOrientation → orientCode? deg = some code →
      s.orient = code) ∧
    s.winArmed = false ∧ s.result = .ok ∧ s.errSticky = false ∧ s.tValid = false ∧ s.tX = 0 ∧ s.tY = 0 ∧
    s.tZ1 = 0 ∧ s.tZ2 = 0 ∧ s.tPress = 0 ∧ s.tXraw = 0 ∧ s.tYraw = 0 ∧ s.csLcdN = true ∧ s.csTpN = true ∧
    s.rstN = true ∧ s.sclk = false ∧ s.mosi = false ∧ s.timer = 0 ∧ s.trace = []) ∧
  State.reset = State.resetWith defaultConfig ∧ State.reset.orient = 0 ∧
  readRegister State.reset 0x04 = 0 ∧ readRegister State.reset 0x08 = 0x014000F0

/-- Rules R290, R274: block reset acts at once, whatever the block is doing: every element of the block takes its reset
value with the same parameters, and a running command has no completion step. What the ended epoch shows of a running
command is the first `k` of the events it would have appended (all of them if they are fewer), and the MISO bytes those
events show are taken; nothing if no command ran. Two clauses are the model's choices, assumption log 8 (DESIGN CHOICE,
unsafe for an ended epoch's last events): that events are shown whole (a byte cut short is whole or absent), and that an
accepted command which could not complete leaves no event, where the rules would let the events it had reached stand. -/
def Obligations.BlockResetActsAtOnce : Prop :=
  ∀ (k : Nat) (rest : List HostOp) (s : State), configLegal s.cfg = true → s.hostOps = .blockReset k :: rest →
    ∃ es, step s = .next { State.resetWith s.cfg with
        hostOps := rest
        miso := s.miso.drop (misoBytesIn es)
        misoDraws := s.misoDraws + (misoBytesIn es - s.miso.length)
        readLog := s.readLog
        busyReads := s.busyReads
        epochs := s.epochs ++ [s.trace ++ es] } ∧
      (s.busy = false → es = []) ∧
      (s.busy = true → (∀ t, runCommand s ≠ .next t) → es = []) ∧
      (∀ t, s.busy = true → runCommand s = .next t → ∃ all, t.trace = s.trace ++ all ∧ es = all.take k)

/-! ### The controller commands -/

/-- Rule R190: RESET with no stream open, in every controller state. -/
def Obligations.ResetCommandFromIdle : Prop :=
  ∀ (s : State), BusIdle s → WaitsLongEnough s.cfg →
    exec .reset s = .next { s with
      ctl := .configuring
      speed := .disp
      rstN := true
      timer := 0
      orient := initOrientCode s.cfg
      winArmed := false
      trace := s.trace ++ [.speed .disp, .cs .lcd true, .rst false, .wait 50, .rst true, .wait 120]
      result := .ok
      cbuf := []
      busy := false }

/-- Rule R190: RESET with a stream open cuts the stream; the stream's acquisition becomes RESET's. -/
def Obligations.ResetCommandCutsStream : Prop :=
  ∀ (s : State), StreamOpen s → WaitsLongEnough s.cfg →
    exec .reset s = .next { s with
      stream := false
      owner := none
      csLcdN := true
      ctl := .configuring
      rstN := true
      timer := 0
      orient := initOrientCode s.cfg
      winArmed := false
      trace := s.trace ++ [.cs .lcd true, .rst false, .wait 50, .rst true, .wait 120]
      result := .ok
      cbuf := []
      busy := false }

/-- Rule R191, U1: with a delay timer faster than the true rate, RESET's waits would be too short and the machine
stops. -/
def Obligations.ResetTooFastStops : Prop :=
  ∀ (s : State), BusIdle s ∨ StreamOpen s → s.cfg.ticksPerMs < s.cfg.trueTicksPerMs →
    exec .reset s = .fault .waitTooShort

/-- Rules R195, R201: CONFIG runs the init table, in order, and reaches READY with the window armed. -/
def Obligations.ConfigRunsInitTable : Prop :=
  ∀ (s : State), BusIdle s → s.ctl = .configuring → WaitsLongEnough s.cfg → s.timer = 0 →
    ∃ c m, exec .config s = .next { s with
      ctl := .ready
      winArmed := true
      speed := .disp
      trace := s.trace ++ (.speed .disp :: initTableEvents s.cfg s.orient s.cfg.initTable)
      sclk := c
      mosi := m
      result := .ok
      cbuf := []
      busy := false }

/-- Rules R195, R200, R201, with device id 0: CONFIG with the default parameters appends, in every orientation, the 271
events of the default table, its 25 writes and its delays written out, with the window (0, 0, LW - 1, LH - 1). -/
def Obligations.ConfigRunsDefaultTable : Prop :=
  ∀ (s : State), BusIdle s → s.ctl = .configuring → s.cfg = defaultConfig →
    let W (a v : Byte) : List Event :=
      [.cs .lcd false, .xfer .lcd 0x70 none, .xfer .lcd a none, .cs .lcd true,
       .cs .lcd false, .xfer .lcd 0x72 none, .xfer .lcd v none, .cs .lcd true]
    let window : List Event :=
      if s.orient = 0 ∨ s.orient = 2 then
        W 0x03 0x00 ++ W 0x02 0x00 ++ W 0x05 0xEF ++ W 0x04 0x00 ++ W 0x07 0x00 ++ W 0x06 0x00 ++ W 0x09 0x3F ++
          W 0x08 0x01
      else
        W 0x03 0x00 ++ W 0x02 0x00 ++ W 0x05 0x3F ++ W 0x04 0x01 ++ W 0x07 0x00 ++ W 0x06 0x00 ++ W 0x09 0xEF ++
          W 0x08 0x00
    ∃ t, exec .config s = .next t ∧ t.ctl = .ready ∧ t.winArmed = true ∧ t.result = .ok ∧
      t.trace.length = s.trace.length + 271 ∧
      t.trace = s.trace ++ ([.speed .disp] ++
        W 0xEA 0x00 ++ W 0xEB 0x20 ++ W 0xEC 0x0C ++ W 0xED 0xC4 ++ W 0xE8 0x40 ++ W 0xE9 0x38 ++ W 0xF1 0x01 ++
        W 0xF2 0x10 ++ W 0x27 0xA3 ++
        W 0x1B 0x1B ++ W 0x1A 0x01 ++ W 0x24 0x2F ++ W 0x25 0x57 ++ W 0x23 0x8D ++ W 0x18 0x36 ++ W 0x19 0x01 ++
        W 0x01 0x00 ++
        W 0x1F 0x88 ++ [.wait 5] ++ W 0x1F 0x80 ++ [.wait 5] ++ W 0x1F 0x90 ++ [.wait 5] ++ W 0x1F 0xD0 ++ [.wait 5] ++
        W 0x17 0x05 ++ W 0x36 0x00 ++ window ++ W 0x28 0x38 ++ [.wait 50] ++ W 0x28 0x3C ++ [.wait 5])

/-- Rules R210, R211: SETORI with one of the four angles writes the table's value to ORIENT_REG and sets the
orientation. -/
def Obligations.SetoriWritesOrientation : Prop :=
  ∀ (s : State) (deg : Half) (code : BitVec 2) (value : Byte) (w h : Half),
    (deg, code, value, w, h) ∈ [((0 : Half), (0 : BitVec 2), (0x08 : Byte), (240 : Half), (320 : Half)),
      (90, 1, 0xA8, 320, 240), (180, 2, 0xC8, 240, 320), (270, 3, 0x68, 320, 240)] →
    BusIdle s → s.ctl = .ready →
    logicalWidth code = w ∧ logicalHeight code = h ∧
    ∃ c m, exec (.setori deg) s = .next { s with
      orient := code
      winArmed := false
      speed := .disp
      trace := s.trace ++ (.speed .disp :: regWriteEvents s.cfg s.cfg.orientReg value)
      sclk := c
      mosi := m
      result := .ok
      cbuf := []
      busy := false }

/-- Rules R261, R267: any other number of degrees, in READY with no stream open, completes with INVALID_ORIENTATION and
changes nothing else. -/
def Obligations.SetoriRejectsOtherDegrees : Prop :=
  ∀ (s : State) (deg : Half), deg ∉ [0, 90, 180, 270] → s.stream = false → s.ctl = .ready →
    exec (.setori deg) s = .next { s with
      result := .invalidOrientation
      errSticky := true
      cbuf := []
      busy := false }

/-! ### The display protocol's commands -/

/-- Rules R150, R151, R152: WRREG sends the two brackets of one register write and changes no block state besides. -/
def Obligations.WrregWritesOneRegister : Prop :=
  ∀ (s : State) (addr val : Byte), BusIdle s → (s.ctl = .configuring ∨ s.ctl = .ready) →
    ∃ c m, exec (.wrreg addr val) s = .next { s with
      speed := .disp
      trace := s.trace ++ [.speed .disp,
        .cs .lcd false, .xfer .lcd (rsp s.cfg) none, .xfer .lcd addr none, .cs .lcd true,
        .cs .lcd false, .xfer .lcd (dsp s.cfg) none, .xfer .lcd val none, .cs .lcd true]
      sclk := c
      mosi := m
      result := .ok
      cbuf := []
      busy := false }

/-- Rules R67, R155, R156: SETWIN sends the eight writes of the window in the fixed order, unchecked against the
geometry, and arms the window. -/
def Obligations.SetwinSendsEightWrites : Prop :=
  ∀ (s : State) (x0 y0 x1 y1 : Half), BusIdle s → s.ctl = .ready →
    ∃ c m, exec (.setwin x0 y0 x1 y1) s = .next { s with
      winArmed := true
      speed := .disp
      trace := s.trace ++ [.speed .disp] ++
        regWriteEvents s.cfg s.cfg.winReg.colStartLow (x0.extractLsb' 0 8) ++
        regWriteEvents s.cfg s.cfg.winReg.colStartHigh (x0.extractLsb' 8 8) ++
        regWriteEvents s.cfg s.cfg.winReg.colEndLow (x1.extractLsb' 0 8) ++
        regWriteEvents s.cfg s.cfg.winReg.colEndHigh (x1.extractLsb' 8 8) ++
        regWriteEvents s.cfg s.cfg.winReg.rowStartLow (y0.extractLsb' 0 8) ++
        regWriteEvents s.cfg s.cfg.winReg.rowStartHigh (y0.extractLsb' 8 8) ++
        regWriteEvents s.cfg s.cfg.winReg.rowEndLow (y1.extractLsb' 0 8) ++
        regWriteEvents s.cfg s.cfg.winReg.rowEndHigh (y1.extractLsb' 8 8)
      sclk := c
      mosi := m
      result := .ok
      cbuf := []
      busy := false }

/-- Rule R160: BEGIN sends the GRAM index in one bracket, opens a second one and leaves it open. -/
def Obligations.BeginOpensStream : Prop :=
  ∀ (s : State), BusIdle s → s.ctl = .ready → s.winArmed = true →
    ∃ c m, exec .beginStream s = .next { s with
      stream := true
      winArmed := false
      owner := some .lcd
      speed := .disp
      csLcdN := false
      trace := s.trace ++ [.speed .disp, .cs .lcd false, .xfer .lcd (rsp s.cfg) none, .xfer .lcd 0x22 none,
        .cs .lcd true, .cs .lcd false, .xfer .lcd (dsp s.cfg) none]
      sclk := c
      mosi := m
      result := .ok
      cbuf := []
      busy := false }

/-- Rules R66, R170: PIXEL streams its two bytes, high byte first, and writes no state. -/
def Obligations.PixelStreamsHighByteFirst : Prop :=
  ∀ (s : State) (p : Half), StreamOpen s →
    ∃ c m, exec (.pixel p) s = .next { s with
      trace := s.trace ++ [.xfer .lcd (p.extractLsb' 8 8) none, .xfer .lcd (p.extractLsb' 0 8) none]
      sclk := c
      mosi := m
      result := .ok
      cbuf := []
      busy := false }

/-- Rule R175: BYTE streams its byte as given and writes no state. -/
def Obligations.ByteStreamsItsByte : Prop :=
  ∀ (s : State) (b : Byte), StreamOpen s →
    ∃ c m, exec (.byte b) s = .next { s with
      trace := s.trace ++ [.xfer .lcd b none]
      sclk := c
      mosi := m
      result := .ok
      cbuf := []
      busy := false }

/-- Rule R164: END closes the stream and gives the bus back; the speed stays. -/
def Obligations.EndClosesStream : Prop :=
  ∀ (s : State), StreamOpen s →
    exec .endStream s = .next { s with
      stream := false
      owner := none
      csLcdN := true
      trace := s.trace ++ [.cs .lcd true]
      result := .ok
      cbuf := []
      busy := false }

/-- Rules R66, R175: the two bytes of a little-endian pixel, high byte first through BYTE, leave the same state as the
PIXEL made of them. (That MOSI's level agrees too rests on how it is left free, assumption log 5.) -/
def Obligations.TwoBytesStreamLikeOnePixel : Prop :=
  ∀ (s : State) (b0 b1 : Byte), StreamOpen s →
    ∃ t, exec (.pixel (pixelOfBuffer b0 b1)) s = .next t ∧ runCommands [.byte b1, .byte b0] s = .next t ∧
      t.trace = s.trace ++ [.xfer .lcd b1 none, .xfer .lcd b0 none]

/-- Rules R110, R180, R304: a render of any pixels from READY issues one window, one BEGIN, two bytes a pixel and one
END, in that order, and ends as it began but for the window, which is no longer armed. The host's program FLUSH reaches
the same state through the host port; what is one step of it (a word written, a command run, a WAITIDLE passed) is the
model's choice, assumption log 3 and 7. -/
def Obligations.RenderStreamsAllPixels : Prop :=
  ∀ (s : State) (x0 y0 x1 y1 : Half) (pixels : List Half), BusIdle s → s.ctl = .ready →
    ∃ c m t, t = { s with
        winArmed := false
        speed := .disp
        trace := s.trace ++ (.speed .disp :: windowEvents s.cfg x0 y0 x1 y1) ++ beginEvents s.cfg ++
          pixels.flatMap pixelEvents ++ [.cs .lcd true]
        sclk := c
        mosi := m
        result := .ok
        cbuf := []
        busy := false } ∧
      runCommands (.setwin x0 y0 x1 y1 :: .beginStream :: (pixels.map .pixel ++ [.endStream])) s = .next t ∧
      (configLegal s.cfg = true → s.busy = false → s.pend = 0 → ∀ rest,
        runSteps (11 + 3 * pixels.length) { s with hostOps := flushOps x0 y0 x1 y1 pixels ++ rest } =
          .next { t with hostOps := rest })

/-! ### Guards -/

/-- Rule R265: with a stream open, every command other than PIXEL, BYTE, END and RESET completes with BUS_CONFLICT
before any other guard, and the stream stays open. -/
def Obligations.StreamRefusesOtherCommands : Prop :=
  ∀ (i : Instr) (s : State), s.stream = true → i ≠ .reset → i ≠ .endStream → (∀ p, i ≠ .pixel p) →
    (∀ b, i ≠ .byte b) →
    exec i s = .next { s with result := .busConflict, errSticky := true, cbuf := [], busy := false }

/-- Rule R266: WRONG_STATE, every cause, for each command it names; RESET and TPOLL never raise it. -/
def Obligations.WrongStateCauses : Prop :=
  (∀ (i : Instr) (s : State),
    ((i = .config ∧ s.stream = false ∧ s.ctl ≠ .configuring) ∨
      ((∃ a v, i = .wrreg a v) ∧ s.stream = false ∧ s.ctl = .unpowered) ∨
      ((∃ d, i = .setori d) ∧ s.stream = false ∧ s.ctl ≠ .ready) ∨
      ((∃ x0 y0 x1 y1, i = .setwin x0 y0 x1 y1) ∧ s.stream = false ∧ s.ctl ≠ .ready) ∨
      (i = .beginStream ∧ s.stream = false ∧ (s.ctl ≠ .ready ∨ s.winArmed = false)) ∨
      (((∃ p, i = .pixel p) ∨ (∃ b, i = .byte b) ∨ i = .endStream) ∧ s.stream = false)) →
    exec i s = .next { s with result := .wrongState, errSticky := true, cbuf := [], busy := false }) ∧
  ∀ (s t : State), exec .reset s = .next t ∨ exec .tpoll s = .next t → t.result ≠ .wrongState

/-- Rules R261, R263: a command that completes with an error changes nothing but the result, the sticky flag, BUSY and
the collected words. -/
def Obligations.ErrorsArePrecise : Prop :=
  ∀ (i : Instr) (s t : State), exec i s = .next t → t.result ≠ .ok →
    t = { s with result := t.result, errSticky := true, cbuf := [], busy := false }

/-- Rules R262, R269: every command that completes has done the completion step, whatever its result, and its result is
never code 2. -/
def Obligations.CompletionStepAlwaysDone : Prop :=
  ∀ (i : Instr) (s t : State), exec i s = .next t →
    t.busy = false ∧ t.cbuf = [] ∧ t.pend = s.pend ∧ t.result ≠ .busTransactionFailure ∧
    t.errSticky = (s.errSticky || decide (t.result ≠ .ok))

/-! ### Touch -/

/-- Rules R140, R225, R226, R240: a poll whose pressure is below MIN_PRESSURE reports no contact after the two 8-bit
conversions. (That SCLK is left low is the model's choice: PRESUMED, assumption log 5.) -/
def Obligations.PollWithoutContact : Prop :=
  ∀ (s : State), BusIdle s → (pollPressure s).toNat < s.cfg.minPressure.toNat →
    ∃ m, exec .tpoll s = .next { s with
      speed := .touch
      trace := s.trace ++ probeEvents s
      miso := s.miso.drop 4
      misoDraws := s.misoDraws + (4 - s.miso.length)
      tValid := false
      tX := 0
      tY := 0
      tZ1 := misoByte s 1
      tZ2 := misoByte s 3
      tPress := pressure (misoByte s 1) (misoByte s 3)
      tXraw := 0
      tYraw := 0
      sclk := false
      mosi := m
      result := .ok
      cbuf := []
      busy := false }

/-- Rules R140, R222 to R231, R236, R240: a poll with contact samples each axis twice, keeps the second samples, and
reports the transformed coordinates. (That SCLK is left low is the model's choice: PRESUMED, assumption log 5.) -/
def Obligations.PollWithContact : Prop :=
  ∀ (s : State), BusIdle s → s.cfg.minPressure.toNat ≤ (pollPressure s).toNat →
    ∃ m, exec .tpoll s = .next { s with
      speed := .touch
      trace := s.trace ++ probeEvents s ++ axisEvents s
      miso := s.miso.drop 16
      misoDraws := s.misoDraws + (16 - s.miso.length)
      tValid := true
      tX := coordWord (transformX s.cfg s.orient (pollXraw s) (pollYraw s))
      tY := coordWord (transformY s.cfg s.orient (pollXraw s) (pollYraw s))
      tZ1 := misoByte s 1
      tZ2 := misoByte s 3
      tPress := pressure (misoByte s 1) (misoByte s 3)
      tXraw := rawSample (misoByte s 8) (misoByte s 9)
      tYraw := rawSample (misoByte s 14) (misoByte s 15)
      sclk := false
      mosi := m
      result := .ok
      cbuf := []
      busy := false }

/-- Rule R224: the bytes received during command bytes, and the whole first conversion of each axis, never reach the
touch result registers: two polls that differ only in them report the same. -/
def Obligations.DiscardedBytesDoNotMatter : Prop :=
  ∀ (s t t' : State) (n n' : Nat → Byte) (z1 z2 xh xl yh yl : Byte) (rest : List Byte),
    exec .tpoll { s with miso := pollScript n z1 z2 xh xl yh yl ++ rest } = .next t →
    exec .tpoll { s with miso := pollScript n' z1 z2 xh xl yh yl ++ rest } = .next t' → SameTouch t t'

/-- Rules R68, R223, R225: the raw sample and the pressure as numbers, bit 15 and bits [2:0] of a response and bit 7 of
`z1` having no part in them. -/
def Obligations.SampleArithmetic : Prop :=
  (∀ hi lo : Byte, (rawSample hi lo).toNat = ((hi.toNat * 256 + lo.toNat) / 8) % 4096) ∧
  (∀ z1 z2 : Byte, (pressure z1 z2).toNat = (z1.toNat % 128 + (255 - z2.toNat)) % 128)

/-- Rules R230, R231, R236: the transform at each orientation, under each binding. -/
def Obligations.TransformTable : Prop :=
  ∀ (cfg : Config) (xr yr : Raw),
    let x := (xr.toNat : Int)
    let y := (yr.toNat : Int)
    let mx (v : Int) (n : Int) := calMap v cfg.xMin.toNat cfg.xMax.toNat 0 n
    let my (v : Int) (n : Int) := calMap v cfg.yMin.toNat cfg.yMax.toNat 0 n
    (transformX cfg 0 xr yr = mx x 239 ∧ transformY cfg 0 xr yr = my y 319) ∧
    (transformX cfg 2 xr yr = mx (4095 - x) 239 ∧ transformY cfg 2 xr yr = my (4095 - y) 319) ∧
    (cfg.calBinding = .screen →
      transformX cfg 1 xr yr = mx (4095 - y) 319 ∧ transformY cfg 1 xr yr = my x 239 ∧
      transformX cfg 3 xr yr = mx y 319 ∧ transformY cfg 3 xr yr = my (4095 - x) 239) ∧
    (cfg.calBinding = .raw →
      transformX cfg 1 xr yr = my (4095 - y) 319 ∧ transformY cfg 1 xr yr = mx x 239 ∧
      transformX cfg 3 xr yr = my y 319 ∧ transformY cfg 3 xr yr = mx (4095 - x) 239)

/-- Rule R232: `Map` is the floor of the exact quotient: the greatest integer `q` with `q × b ≤ a`, plus `out_min`. -/
def Obligations.MapIsExactFloor : Prop :=
  ∀ (v inMin inMax outMin outMax : Int), inMin < inMax →
    (calMap v inMin inMax outMin outMax - outMin) * (inMax - inMin) ≤ (v - inMin) * (outMax - outMin) ∧
    ∀ q, q * (inMax - inMin) ≤ (v - inMin) * (outMax - outMin) → q ≤ calMap v inMin inMax outMin outMax - outMin

/-- Rule R233: endpoints and monotonicity of `Map`, and its midpoint within 1, the last where the output range is no
wider than the input range (at any ranges: `MapMidpointAtAnyRange`; why the condition: assumption log 14). -/
def Obligations.MapEndpointsMonotoneMidpoint : Prop :=
  ∀ (inMin inMax outMin outMax : Int), inMin < inMax → outMin ≤ outMax →
    calMap inMin inMin inMax outMin outMax = outMin ∧ calMap inMax inMin inMax outMin outMax = outMax ∧
    (∀ v w, v ≤ w → calMap v inMin inMax outMin outMax ≤ calMap w inMin inMax outMin outMax) ∧
    (outMax - outMin ≤ inMax - inMin →
      outMin + outMax - 2 ≤ 2 * calMap (Int.fdiv (inMin + inMax) 2) inMin inMax outMin outMax ∧
      2 * calMap (Int.fdiv (inMin + inMax) 2) inMin inMax outMin outMax ≤ outMin + outMax + 2)

/-- What rule R232 gives at every range for rule R233's midpoint: `Map` of the input midpoint is never above the output
midpoint, and below it by less than 1 plus half the ratio of the output range to the input range. (That is within 1 where
the output range is no wider; rule R233's words leave that condition out, assumption log 14.) -/
def Obligations.MapMidpointAtAnyRange : Prop :=
  ∀ (inMin inMax outMin outMax : Int), inMin < inMax → outMin ≤ outMax →
    let m := calMap (Int.fdiv (inMin + inMax) 2) inMin inMax outMin outMax
    2 * m ≤ outMin + outMax ∧
    (outMin + outMax - 2 * m) * (inMax - inMin) < (outMax - outMin) + 2 * (inMax - inMin)

/-- Rule R235: with legal bounds every coordinate fits 32-bit two's complement: TOUCH_X and TOUCH_Y, read as signed,
are the coordinates computed. -/
def Obligations.CoordinatesFitWithoutOverflow : Prop :=
  ∀ (cfg : Config) (c : BitVec 2) (xr yr : Raw), cfg.xMin.toNat < cfg.xMax.toNat → cfg.yMin.toNat < cfg.yMax.toNat →
    (transformX cfg c xr yr).natAbs < 2 ^ 21 ∧ (transformY cfg c xr yr).natAbs < 2 ^ 21 ∧
    (coordWord (transformX cfg c xr yr)).toInt = transformX cfg c xr yr ∧
    (coordWord (transformY cfg c xr yr)).toInt = transformY cfg c xr yr

/-- Rules R150, R220, R221: the display's prefix bytes and the touch command byte bit by bit, and their values for
device id 0 and `TOUCH_PD` 0. -/
def Obligations.ProtocolBytesBitByBit : Prop :=
  (∀ c : Config, (rsp c).extractLsb' 4 4 = 7 ∧ (rsp c).extractLsb' 2 2 = c.deviceId ∧
    (rsp c).extractLsb' 0 2 = 0 ∧ (dsp c).extractLsb' 4 4 = 7 ∧ (dsp c).extractLsb' 2 2 = c.deviceId ∧
    (dsp c).extractLsb' 0 2 = 2) ∧
  rsp defaultConfig = 0x70 ∧ dsp defaultConfig = 0x72 ∧
  (∀ (c : Config) (ch : Channel) (res : Resolution),
    (touchCmd c ch res).getLsbD 7 = true ∧
    (touchCmd c ch res).extractLsb' 4 3 = (match ch with | .x => 5 | .y => 1 | .z1 => 3 | .z2 => 4) ∧
    (touchCmd c ch res).getLsbD 3 = (match res with | .bits8 => true | .bits12 => false) ∧
    (touchCmd c ch res).getLsbD 2 = false ∧ (touchCmd c ch res).extractLsb' 0 2 = c.touchPd) ∧
  touchCmd defaultConfig .z1 .bits8 = 0xB8 ∧ touchCmd defaultConfig .z2 .bits8 = 0xC8 ∧
  touchCmd defaultConfig .x .bits12 = 0xD0 ∧ touchCmd defaultConfig .y .bits12 = 0x90

/-! ### The whole machine -/

/-- Rules R36 to R39 and the further invariants of `BlockInv`, and the wire's discipline, hold at reset. -/
def Obligations.ResetMeetsInvariants : Prop := BlockInv State.reset ∧ WireDiscipline State.reset

/-- Rules R36 to R39 for the bus, and R25, R30, R44, R91, R132, R190, R192, R262, R269, R277 for the further fields of
`BlockInv`: every step keeps `BlockInv`, from every state that meets it. (Its field `clockLow`, that every step leaves
SCLK low, is the model's choice: rule R140 is general knowledge; PRESUMED, assumption log 5.) -/
def Obligations.StepKeepsBlockInv : Prop := ∀ (s t : State), BlockInv s → step s = .next t → BlockInv t

/-- Rules R36, R37, R38 as they are written follow from `BlockInv`. -/
def Obligations.BlockInvGivesBusRules : Prop :=
  ∀ (s : State), BlockInv s →
    ¬ (s.csLcdN = false ∧ s.csTpN = false) ∧
    (s.csLcdN = false → s.owner = some .lcd ∧ s.speed = .disp) ∧
    (s.csTpN = false → s.owner = some .tp ∧ s.speed = .touch) ∧
    (s.stream = true → s.owner = some .lcd ∧ s.csLcdN = false ∧ s.ctl = .ready) ∧
    (s.busy = false → s.stream = false → s.owner = none ∧ s.csLcdN = true ∧ s.csTpN = true)

/-- Rules R36, R37, R130, R143, R191, R300, R302, R303: every step keeps the wire's discipline. No event of any trace
the block makes, of this epoch or of an ended one (cut as assumption log 8 says), selects a second peripheral, moves a
byte at the wrong speed, changes the speed with a peripheral selected, ends the reset pulse before 50 ms, or selects the
display within 120 ms of it. -/
def Obligations.StepKeepsWireDiscipline : Prop :=
  ∀ (s t : State), BlockInv s → WireDiscipline s → step s = .next t → WireDiscipline t

/-- Rule R133: no step from a state that meets the invariant reaches a model defect. -/
def Obligations.NoStepReachesModelDefect : Prop :=
  ∀ (s : State) (p : Primitive), BlockInv s →
    step s ≠ .fault (.modelDefect p) ∧ step s ≠ .fault .collectorDefect

/-- Rules R263, R270, R311: with an admitted configuration, long enough waits and admitted host accesses, every step
from a state that meets the invariant answers a next state, and a step that runs the accepted command leaves BUSY 0. -/
def Obligations.EveryStepGoesOn : Prop :=
  ∀ (s : State), BlockInv s → configLegal s.cfg = true → WaitsLongEnough s.cfg → NextAccessAdmitted s →
    ∃ t, step s = .next t ∧ (s.busy = true → HostWaits s → t.busy = false)

/-- Rules R34, R78, R121: a command only appends to the trace, and touches neither the parameters nor what the host
does next. -/
def Obligations.CommandsOnlyAppendEvents : Prop :=
  ∀ (i : Instr) (s t : State), exec i s = .next t →
    s.trace <+: t.trace ∧ t.cfg = s.cfg ∧ t.hostOps = s.hostOps ∧ t.readLog = s.readLog ∧ t.epochs = s.epochs

/-- Rule R213: "only RESET or block reset leaves" READY, and only a CONFIG in CONFIGURING that completes OK reaches
it. -/
def Obligations.ReadyLeftByResetsOnly : Prop :=
  ∀ (s t : State), step s = .next t →
    (s.ctl = .ready → t.ctl ≠ .ready → Running .reset s ∨ BlockResetNext s) ∧
    (s.ctl ≠ .ready → t.ctl = .ready → Running .config s ∧ s.ctl = .configuring ∧ t.result = .ok)

/-- Rules R29, R49, R211: the orientation changes only by SETORI with result OK, by RESET and by block reset. -/
def Obligations.OrientationWriters : Prop :=
  ∀ (s t : State), step s = .next t → t.orient ≠ s.orient →
    (∃ deg, Running (.setori deg) s ∧ t.result = .ok) ∨ Running .reset s ∨ BlockResetNext s

/-- Rules R30, R304: the window is armed only by SETWIN and by CONFIG's window, and a BEGIN that completes OK found it
armed and leaves it not armed. -/
def Obligations.WindowArmedOnlyByWindowWrites : Prop :=
  (∀ (s t : State), step s = .next t → s.winArmed = false → t.winArmed = true →
    (∃ x0 y0 x1 y1, Running (.setwin x0 y0 x1 y1) s) ∨ Running .config s) ∧
  (∀ (s t : State), exec .beginStream s = .next t → t.result = .ok → s.winArmed = true ∧ t.winArmed = false)

/-- Rules R32, R50: the touch result registers are written only by a TPOLL that completes OK, and by block reset. -/
def Obligations.TouchRegistersWrittenByPollOnly : Prop :=
  ∀ (s t : State), step s = .next t → ¬ SameTouch s t →
    (Running .tpoll s ∧ t.result = .ok) ∨ BlockResetNext s

/-- Rules R262, R35: no step changes a parameter, and only block reset clears the sticky error flag. -/
def Obligations.StickyFlagAndParametersStay : Prop :=
  ∀ (s t : State), step s = .next t →
    t.cfg = s.cfg ∧ (s.errSticky = true → t.errSticky = false → BlockResetNext s)

/-- Rules R110, R296: after block reset with any admitted parameters, RESET, CONFIG and SETORI to any of the four
angles, run in order, reach READY with that orientation, no window armed, no error and the bus free. The host's program
BOOT reaches the same state through the host port; what is one step of it (a word written, a command run, a WAITIDLE
passed) is the model's choice, assumption log 3 and 7. -/
def Obligations.BootReachesReady : Prop :=
  ∀ (cfg : Config) (deg : Half) (code : BitVec 2), WaitsLongEnough cfg → orientCode? deg = some code →
    ∃ t, runCommands [.reset, .config, .setori deg] (State.resetWith cfg) = .next t ∧ t.ctl = .ready ∧
      t.orient = code ∧ t.winArmed = false ∧ t.result = .ok ∧ t.errSticky = false ∧ BusIdle t ∧
      t.trace = [.speed .disp] ++ resetPulseEvents ++
        (.speed .disp :: initTableEvents cfg (initOrientCode cfg) cfg.initTable) ++
        (.speed .disp :: regWriteEvents cfg cfg.orientReg (orientValue code)) ∧
      (configLegal cfg = true → ∀ rest,
        runSteps 9 { State.resetWith cfg with hostOps := bootOps deg ++ rest } = .next { t with hostOps := rest })
end

