-- ==== Sys2Proof/Laws/State.lean ====
section
/-! SUPPORT. What each named update does to each field of the state, so that no proof unfolds a record update. -/

namespace Sys2Proof.Machine

/-! ### `State.emit` -/

@[simp] theorem emit_cfg (s : State) (e : Event) : (s.emit e).cfg = s.cfg := rfl
@[simp] theorem emit_ctl (s : State) (e : Event) : (s.emit e).ctl = s.ctl := rfl
@[simp] theorem emit_busy (s : State) (e : Event) : (s.emit e).busy = s.busy := rfl
@[simp] theorem emit_pend (s : State) (e : Event) : (s.emit e).pend = s.pend := rfl
@[simp] theorem emit_cbuf (s : State) (e : Event) : (s.emit e).cbuf = s.cbuf := rfl
@[simp] theorem emit_stream (s : State) (e : Event) : (s.emit e).stream = s.stream := rfl
@[simp] theorem emit_owner (s : State) (e : Event) : (s.emit e).owner = s.owner := rfl
@[simp] theorem emit_speed (s : State) (e : Event) : (s.emit e).speed = s.speed := rfl
@[simp] theorem emit_orient (s : State) (e : Event) : (s.emit e).orient = s.orient := rfl
@[simp] theorem emit_winArmed (s : State) (e : Event) : (s.emit e).winArmed = s.winArmed := rfl
@[simp] theorem emit_result (s : State) (e : Event) : (s.emit e).result = s.result := rfl
@[simp] theorem emit_errSticky (s : State) (e : Event) : (s.emit e).errSticky = s.errSticky := rfl
@[simp] theorem emit_tValid (s : State) (e : Event) : (s.emit e).tValid = s.tValid := rfl
@[simp] theorem emit_tX (s : State) (e : Event) : (s.emit e).tX = s.tX := rfl
@[simp] theorem emit_tY (s : State) (e : Event) : (s.emit e).tY = s.tY := rfl
@[simp] theorem emit_tZ1 (s : State) (e : Event) : (s.emit e).tZ1 = s.tZ1 := rfl
@[simp] theorem emit_tZ2 (s : State) (e : Event) : (s.emit e).tZ2 = s.tZ2 := rfl
@[simp] theorem emit_tPress (s : State) (e : Event) : (s.emit e).tPress = s.tPress := rfl
@[simp] theorem emit_tXraw (s : State) (e : Event) : (s.emit e).tXraw = s.tXraw := rfl
@[simp] theorem emit_tYraw (s : State) (e : Event) : (s.emit e).tYraw = s.tYraw := rfl
@[simp] theorem emit_csLcdN (s : State) (e : Event) : (s.emit e).csLcdN = s.csLcdN := rfl
@[simp] theorem emit_csTpN (s : State) (e : Event) : (s.emit e).csTpN = s.csTpN := rfl
@[simp] theorem emit_rstN (s : State) (e : Event) : (s.emit e).rstN = s.rstN := rfl
@[simp] theorem emit_sclk (s : State) (e : Event) : (s.emit e).sclk = s.sclk := rfl
@[simp] theorem emit_mosi (s : State) (e : Event) : (s.emit e).mosi = s.mosi := rfl
@[simp] theorem emit_timer (s : State) (e : Event) : (s.emit e).timer = s.timer := rfl
@[simp] theorem emit_trace (s : State) (e : Event) : (s.emit e).trace = s.trace ++ [e] := rfl
@[simp] theorem emit_hostOps (s : State) (e : Event) : (s.emit e).hostOps = s.hostOps := rfl
@[simp] theorem emit_miso (s : State) (e : Event) : (s.emit e).miso = s.miso := rfl
@[simp] theorem emit_misoDraws (s : State) (e : Event) : (s.emit e).misoDraws = s.misoDraws := rfl
@[simp] theorem emit_readLog (s : State) (e : Event) : (s.emit e).readLog = s.readLog := rfl
@[simp] theorem emit_busyReads (s : State) (e : Event) : (s.emit e).busyReads = s.busyReads := rfl
@[simp] theorem emit_epochs (s : State) (e : Event) : (s.emit e).epochs = s.epochs := rfl

/-! ### `State.shifted` -/

@[simp] theorem shifted_cfg (s : State) (e : Event) : (s.shifted e).cfg = s.cfg := rfl
@[simp] theorem shifted_ctl (s : State) (e : Event) : (s.shifted e).ctl = s.ctl := rfl
@[simp] theorem shifted_busy (s : State) (e : Event) : (s.shifted e).busy = s.busy := rfl
@[simp] theorem shifted_pend (s : State) (e : Event) : (s.shifted e).pend = s.pend := rfl
@[simp] theorem shifted_cbuf (s : State) (e : Event) : (s.shifted e).cbuf = s.cbuf := rfl
@[simp] theorem shifted_stream (s : State) (e : Event) : (s.shifted e).stream = s.stream := rfl
@[simp] theorem shifted_owner (s : State) (e : Event) : (s.shifted e).owner = s.owner := rfl
@[simp] theorem shifted_speed (s : State) (e : Event) : (s.shifted e).speed = s.speed := rfl
@[simp] theorem shifted_orient (s : State) (e : Event) : (s.shifted e).orient = s.orient := rfl
@[simp] theorem shifted_winArmed (s : State) (e : Event) : (s.shifted e).winArmed = s.winArmed := rfl
@[simp] theorem shifted_result (s : State) (e : Event) : (s.shifted e).result = s.result := rfl
@[simp] theorem shifted_errSticky (s : State) (e : Event) : (s.shifted e).errSticky = s.errSticky := rfl
@[simp] theorem shifted_tValid (s : State) (e : Event) : (s.shifted e).tValid = s.tValid := rfl
@[simp] theorem shifted_tX (s : State) (e : Event) : (s.shifted e).tX = s.tX := rfl
@[simp] theorem shifted_tY (s : State) (e : Event) : (s.shifted e).tY = s.tY := rfl
@[simp] theorem shifted_tZ1 (s : State) (e : Event) : (s.shifted e).tZ1 = s.tZ1 := rfl
@[simp] theorem shifted_tZ2 (s : State) (e : Event) : (s.shifted e).tZ2 = s.tZ2 := rfl
@[simp] theorem shifted_tPress (s : State) (e : Event) : (s.shifted e).tPress = s.tPress := rfl
@[simp] theorem shifted_tXraw (s : State) (e : Event) : (s.shifted e).tXraw = s.tXraw := rfl
@[simp] theorem shifted_tYraw (s : State) (e : Event) : (s.shifted e).tYraw = s.tYraw := rfl
@[simp] theorem shifted_csLcdN (s : State) (e : Event) : (s.shifted e).csLcdN = s.csLcdN := rfl
@[simp] theorem shifted_csTpN (s : State) (e : Event) : (s.shifted e).csTpN = s.csTpN := rfl
@[simp] theorem shifted_rstN (s : State) (e : Event) : (s.shifted e).rstN = s.rstN := rfl
@[simp] theorem shifted_sclk (s : State) (e : Event) : (s.shifted e).sclk = false := rfl
@[simp] theorem shifted_mosi (s : State) (e : Event) : (s.shifted e).mosi = Config.mosiIdle s.epochs.length s.trace.length := rfl
@[simp] theorem shifted_timer (s : State) (e : Event) : (s.shifted e).timer = s.timer := rfl
@[simp] theorem shifted_trace (s : State) (e : Event) : (s.shifted e).trace = s.trace ++ [e] := rfl
@[simp] theorem shifted_hostOps (s : State) (e : Event) : (s.shifted e).hostOps = s.hostOps := rfl
@[simp] theorem shifted_miso (s : State) (e : Event) : (s.shifted e).miso = s.miso := rfl
@[simp] theorem shifted_misoDraws (s : State) (e : Event) : (s.shifted e).misoDraws = s.misoDraws := rfl
@[simp] theorem shifted_readLog (s : State) (e : Event) : (s.shifted e).readLog = s.readLog := rfl
@[simp] theorem shifted_busyReads (s : State) (e : Event) : (s.shifted e).busyReads = s.busyReads := rfl
@[simp] theorem shifted_epochs (s : State) (e : Event) : (s.shifted e).epochs = s.epochs := rfl

/-! ### `complete` -/

@[simp] theorem complete_cfg (r : Result) (s : State) : (complete r s).cfg = s.cfg := rfl
@[simp] theorem complete_ctl (r : Result) (s : State) : (complete r s).ctl = s.ctl := rfl
@[simp] theorem complete_busy (r : Result) (s : State) : (complete r s).busy = false := rfl
@[simp] theorem complete_pend (r : Result) (s : State) : (complete r s).pend = s.pend := rfl
@[simp] theorem complete_cbuf (r : Result) (s : State) : (complete r s).cbuf = [] := rfl
@[simp] theorem complete_stream (r : Result) (s : State) : (complete r s).stream = s.stream := rfl
@[simp] theorem complete_owner (r : Result) (s : State) : (complete r s).owner = s.owner := rfl
@[simp] theorem complete_speed (r : Result) (s : State) : (complete r s).speed = s.speed := rfl
@[simp] theorem complete_orient (r : Result) (s : State) : (complete r s).orient = s.orient := rfl
@[simp] theorem complete_winArmed (r : Result) (s : State) : (complete r s).winArmed = s.winArmed := rfl
@[simp] theorem complete_result (r : Result) (s : State) : (complete r s).result = r := rfl
@[simp] theorem complete_errSticky (r : Result) (s : State) : (complete r s).errSticky = (s.errSticky || decide (r ≠ .ok)) := rfl
@[simp] theorem complete_tValid (r : Result) (s : State) : (complete r s).tValid = s.tValid := rfl
@[simp] theorem complete_tX (r : Result) (s : State) : (complete r s).tX = s.tX := rfl
@[simp] theorem complete_tY (r : Result) (s : State) : (complete r s).tY = s.tY := rfl
@[simp] theorem complete_tZ1 (r : Result) (s : State) : (complete r s).tZ1 = s.tZ1 := rfl
@[simp] theorem complete_tZ2 (r : Result) (s : State) : (complete r s).tZ2 = s.tZ2 := rfl
@[simp] theorem complete_tPress (r : Result) (s : State) : (complete r s).tPress = s.tPress := rfl
@[simp] theorem complete_tXraw (r : Result) (s : State) : (complete r s).tXraw = s.tXraw := rfl
@[simp] theorem complete_tYraw (r : Result) (s : State) : (complete r s).tYraw = s.tYraw := rfl
@[simp] theorem complete_csLcdN (r : Result) (s : State) : (complete r s).csLcdN = s.csLcdN := rfl
@[simp] theorem complete_csTpN (r : Result) (s : State) : (complete r s).csTpN = s.csTpN := rfl
@[simp] theorem complete_rstN (r : Result) (s : State) : (complete r s).rstN = s.rstN := rfl
@[simp] theorem complete_sclk (r : Result) (s : State) : (complete r s).sclk = s.sclk := rfl
@[simp] theorem complete_mosi (r : Result) (s : State) : (complete r s).mosi = s.mosi := rfl
@[simp] theorem complete_timer (r : Result) (s : State) : (complete r s).timer = s.timer := rfl
@[simp] theorem complete_trace (r : Result) (s : State) : (complete r s).trace = s.trace := rfl
@[simp] theorem complete_hostOps (r : Result) (s : State) : (complete r s).hostOps = s.hostOps := rfl
@[simp] theorem complete_miso (r : Result) (s : State) : (complete r s).miso = s.miso := rfl
@[simp] theorem complete_misoDraws (r : Result) (s : State) : (complete r s).misoDraws = s.misoDraws := rfl
@[simp] theorem complete_readLog (r : Result) (s : State) : (complete r s).readLog = s.readLog := rfl
@[simp] theorem complete_busyReads (r : Result) (s : State) : (complete r s).busyReads = s.busyReads := rfl
@[simp] theorem complete_epochs (r : Result) (s : State) : (complete r s).epochs = s.epochs := rfl

/-! ### `State.dropHostOp` -/

@[simp] theorem dropHostOp_cfg (s : State) : (s.dropHostOp).cfg = s.cfg := rfl
@[simp] theorem dropHostOp_ctl (s : State) : (s.dropHostOp).ctl = s.ctl := rfl
@[simp] theorem dropHostOp_busy (s : State) : (s.dropHostOp).busy = s.busy := rfl
@[simp] theorem dropHostOp_pend (s : State) : (s.dropHostOp).pend = s.pend := rfl
@[simp] theorem dropHostOp_cbuf (s : State) : (s.dropHostOp).cbuf = s.cbuf := rfl
@[simp] theorem dropHostOp_stream (s : State) : (s.dropHostOp).stream = s.stream := rfl
@[simp] theorem dropHostOp_owner (s : State) : (s.dropHostOp).owner = s.owner := rfl
@[simp] theorem dropHostOp_speed (s : State) : (s.dropHostOp).speed = s.speed := rfl
@[simp] theorem dropHostOp_orient (s : State) : (s.dropHostOp).orient = s.orient := rfl
@[simp] theorem dropHostOp_winArmed (s : State) : (s.dropHostOp).winArmed = s.winArmed := rfl
@[simp] theorem dropHostOp_result (s : State) : (s.dropHostOp).result = s.result := rfl
@[simp] theorem dropHostOp_errSticky (s : State) : (s.dropHostOp).errSticky = s.errSticky := rfl
@[simp] theorem dropHostOp_tValid (s : State) : (s.dropHostOp).tValid = s.tValid := rfl
@[simp] theorem dropHostOp_tX (s : State) : (s.dropHostOp).tX = s.tX := rfl
@[simp] theorem dropHostOp_tY (s : State) : (s.dropHostOp).tY = s.tY := rfl
@[simp] theorem dropHostOp_tZ1 (s : State) : (s.dropHostOp).tZ1 = s.tZ1 := rfl
@[simp] theorem dropHostOp_tZ2 (s : State) : (s.dropHostOp).tZ2 = s.tZ2 := rfl
@[simp] theorem dropHostOp_tPress (s : State) : (s.dropHostOp).tPress = s.tPress := rfl
@[simp] theorem dropHostOp_tXraw (s : State) : (s.dropHostOp).tXraw = s.tXraw := rfl
@[simp] theorem dropHostOp_tYraw (s : State) : (s.dropHostOp).tYraw = s.tYraw := rfl
@[simp] theorem dropHostOp_csLcdN (s : State) : (s.dropHostOp).csLcdN = s.csLcdN := rfl
@[simp] theorem dropHostOp_csTpN (s : State) : (s.dropHostOp).csTpN = s.csTpN := rfl
@[simp] theorem dropHostOp_rstN (s : State) : (s.dropHostOp).rstN = s.rstN := rfl
@[simp] theorem dropHostOp_sclk (s : State) : (s.dropHostOp).sclk = s.sclk := rfl
@[simp] theorem dropHostOp_mosi (s : State) : (s.dropHostOp).mosi = s.mosi := rfl
@[simp] theorem dropHostOp_timer (s : State) : (s.dropHostOp).timer = s.timer := rfl
@[simp] theorem dropHostOp_trace (s : State) : (s.dropHostOp).trace = s.trace := rfl
@[simp] theorem dropHostOp_hostOps (s : State) : (s.dropHostOp).hostOps = s.hostOps.drop 1 := rfl
@[simp] theorem dropHostOp_miso (s : State) : (s.dropHostOp).miso = s.miso := rfl
@[simp] theorem dropHostOp_misoDraws (s : State) : (s.dropHostOp).misoDraws = s.misoDraws := rfl
@[simp] theorem dropHostOp_readLog (s : State) : (s.dropHostOp).readLog = s.readLog := rfl
@[simp] theorem dropHostOp_busyReads (s : State) : (s.dropHostOp).busyReads = s.busyReads := rfl
@[simp] theorem dropHostOp_epochs (s : State) : (s.dropHostOp).epochs = s.epochs := rfl

/-! ### `acceptedWith` -/

@[simp] theorem acceptedWith_cfg (ws : List Word) (s : State) : (acceptedWith ws s).cfg = s.cfg := rfl
@[simp] theorem acceptedWith_ctl (ws : List Word) (s : State) : (acceptedWith ws s).ctl = s.ctl := rfl
@[simp] theorem acceptedWith_busy (ws : List Word) (s : State) : (acceptedWith ws s).busy = true := rfl
@[simp] theorem acceptedWith_pend (ws : List Word) (s : State) : (acceptedWith ws s).pend = 0 := rfl
@[simp] theorem acceptedWith_cbuf (ws : List Word) (s : State) : (acceptedWith ws s).cbuf = ws := rfl
@[simp] theorem acceptedWith_stream (ws : List Word) (s : State) : (acceptedWith ws s).stream = s.stream := rfl
@[simp] theorem acceptedWith_owner (ws : List Word) (s : State) : (acceptedWith ws s).owner = s.owner := rfl
@[simp] theorem acceptedWith_speed (ws : List Word) (s : State) : (acceptedWith ws s).speed = s.speed := rfl
@[simp] theorem acceptedWith_orient (ws : List Word) (s : State) : (acceptedWith ws s).orient = s.orient := rfl
@[simp] theorem acceptedWith_winArmed (ws : List Word) (s : State) : (acceptedWith ws s).winArmed = s.winArmed := rfl
@[simp] theorem acceptedWith_result (ws : List Word) (s : State) : (acceptedWith ws s).result = s.result := rfl
@[simp] theorem acceptedWith_errSticky (ws : List Word) (s : State) : (acceptedWith ws s).errSticky = s.errSticky := rfl
@[simp] theorem acceptedWith_tValid (ws : List Word) (s : State) : (acceptedWith ws s).tValid = s.tValid := rfl
@[simp] theorem acceptedWith_tX (ws : List Word) (s : State) : (acceptedWith ws s).tX = s.tX := rfl
@[simp] theorem acceptedWith_tY (ws : List Word) (s : State) : (acceptedWith ws s).tY = s.tY := rfl
@[simp] theorem acceptedWith_tZ1 (ws : List Word) (s : State) : (acceptedWith ws s).tZ1 = s.tZ1 := rfl
@[simp] theorem acceptedWith_tZ2 (ws : List Word) (s : State) : (acceptedWith ws s).tZ2 = s.tZ2 := rfl
@[simp] theorem acceptedWith_tPress (ws : List Word) (s : State) : (acceptedWith ws s).tPress = s.tPress := rfl
@[simp] theorem acceptedWith_tXraw (ws : List Word) (s : State) : (acceptedWith ws s).tXraw = s.tXraw := rfl
@[simp] theorem acceptedWith_tYraw (ws : List Word) (s : State) : (acceptedWith ws s).tYraw = s.tYraw := rfl
@[simp] theorem acceptedWith_csLcdN (ws : List Word) (s : State) : (acceptedWith ws s).csLcdN = s.csLcdN := rfl
@[simp] theorem acceptedWith_csTpN (ws : List Word) (s : State) : (acceptedWith ws s).csTpN = s.csTpN := rfl
@[simp] theorem acceptedWith_rstN (ws : List Word) (s : State) : (acceptedWith ws s).rstN = s.rstN := rfl
@[simp] theorem acceptedWith_sclk (ws : List Word) (s : State) : (acceptedWith ws s).sclk = s.sclk := rfl
@[simp] theorem acceptedWith_mosi (ws : List Word) (s : State) : (acceptedWith ws s).mosi = s.mosi := rfl
@[simp] theorem acceptedWith_timer (ws : List Word) (s : State) : (acceptedWith ws s).timer = s.timer := rfl
@[simp] theorem acceptedWith_trace (ws : List Word) (s : State) : (acceptedWith ws s).trace = s.trace := rfl
@[simp] theorem acceptedWith_hostOps (ws : List Word) (s : State) : (acceptedWith ws s).hostOps = .awaitIdle :: s.hostOps := rfl
@[simp] theorem acceptedWith_miso (ws : List Word) (s : State) : (acceptedWith ws s).miso = s.miso := rfl
@[simp] theorem acceptedWith_misoDraws (ws : List Word) (s : State) : (acceptedWith ws s).misoDraws = s.misoDraws := rfl
@[simp] theorem acceptedWith_readLog (ws : List Word) (s : State) : (acceptedWith ws s).readLog = s.readLog := rfl
@[simp] theorem acceptedWith_busyReads (ws : List Word) (s : State) : (acceptedWith ws s).busyReads = s.busyReads := rfl
@[simp] theorem acceptedWith_epochs (ws : List Word) (s : State) : (acceptedWith ws s).epochs = s.epochs := rfl

/-! ### `storeTouch` -/

@[simp] theorem storeTouch_cfg (v : Bool) (x y : Int) (z1 z2 : Byte) (xr yr : Raw) (s : State) : (storeTouch v x y z1 z2 xr yr s).cfg = s.cfg := rfl
@[simp] theorem storeTouch_ctl (v : Bool) (x y : Int) (z1 z2 : Byte) (xr yr : Raw) (s : State) : (storeTouch v x y z1 z2 xr yr s).ctl = s.ctl := rfl
@[simp] theorem storeTouch_busy (v : Bool) (x y : Int) (z1 z2 : Byte) (xr yr : Raw) (s : State) : (storeTouch v x y z1 z2 xr yr s).busy = s.busy := rfl
@[simp] theorem storeTouch_pend (v : Bool) (x y : Int) (z1 z2 : Byte) (xr yr : Raw) (s : State) : (storeTouch v x y z1 z2 xr yr s).pend = s.pend := rfl
@[simp] theorem storeTouch_cbuf (v : Bool) (x y : Int) (z1 z2 : Byte) (xr yr : Raw) (s : State) : (storeTouch v x y z1 z2 xr yr s).cbuf = s.cbuf := rfl
@[simp] theorem storeTouch_stream (v : Bool) (x y : Int) (z1 z2 : Byte) (xr yr : Raw) (s : State) : (storeTouch v x y z1 z2 xr yr s).stream = s.stream := rfl
@[simp] theorem storeTouch_owner (v : Bool) (x y : Int) (z1 z2 : Byte) (xr yr : Raw) (s : State) : (storeTouch v x y z1 z2 xr yr s).owner = s.owner := rfl
@[simp] theorem storeTouch_speed (v : Bool) (x y : Int) (z1 z2 : Byte) (xr yr : Raw) (s : State) : (storeTouch v x y z1 z2 xr yr s).speed = s.speed := rfl
@[simp] theorem storeTouch_orient (v : Bool) (x y : Int) (z1 z2 : Byte) (xr yr : Raw) (s : State) : (storeTouch v x y z1 z2 xr yr s).orient = s.orient := rfl
@[simp] theorem storeTouch_winArmed (v : Bool) (x y : Int) (z1 z2 : Byte) (xr yr : Raw) (s : State) : (storeTouch v x y z1 z2 xr yr s).winArmed = s.winArmed := rfl
@[simp] theorem storeTouch_result (v : Bool) (x y : Int) (z1 z2 : Byte) (xr yr : Raw) (s : State) : (storeTouch v x y z1 z2 xr yr s).result = s.result := rfl
@[simp] theorem storeTouch_errSticky (v : Bool) (x y : Int) (z1 z2 : Byte) (xr yr : Raw) (s : State) : (storeTouch v x y z1 z2 xr yr s).errSticky = s.errSticky := rfl
@[simp] theorem storeTouch_tValid (v : Bool) (x y : Int) (z1 z2 : Byte) (xr yr : Raw) (s : State) : (storeTouch v x y z1 z2 xr yr s).tValid = v := rfl
@[simp] theorem storeTouch_tX (v : Bool) (x y : Int) (z1 z2 : Byte) (xr yr : Raw) (s : State) : (storeTouch v x y z1 z2 xr yr s).tX = coordWord x := rfl
@[simp] theorem storeTouch_tY (v : Bool) (x y : Int) (z1 z2 : Byte) (xr yr : Raw) (s : State) : (storeTouch v x y z1 z2 xr yr s).tY = coordWord y := rfl
@[simp] theorem storeTouch_tZ1 (v : Bool) (x y : Int) (z1 z2 : Byte) (xr yr : Raw) (s : State) : (storeTouch v x y z1 z2 xr yr s).tZ1 = z1 := rfl
@[simp] theorem storeTouch_tZ2 (v : Bool) (x y : Int) (z1 z2 : Byte) (xr yr : Raw) (s : State) : (storeTouch v x y z1 z2 xr yr s).tZ2 = z2 := rfl
@[simp] theorem storeTouch_tPress (v : Bool) (x y : Int) (z1 z2 : Byte) (xr yr : Raw) (s : State) : (storeTouch v x y z1 z2 xr yr s).tPress = pressure z1 z2 := rfl
@[simp] theorem storeTouch_tXraw (v : Bool) (x y : Int) (z1 z2 : Byte) (xr yr : Raw) (s : State) : (storeTouch v x y z1 z2 xr yr s).tXraw = xr := rfl
@[simp] theorem storeTouch_tYraw (v : Bool) (x y : Int) (z1 z2 : Byte) (xr yr : Raw) (s : State) : (storeTouch v x y z1 z2 xr yr s).tYraw = yr := rfl
@[simp] theorem storeTouch_csLcdN (v : Bool) (x y : Int) (z1 z2 : Byte) (xr yr : Raw) (s : State) : (storeTouch v x y z1 z2 xr yr s).csLcdN = s.csLcdN := rfl
@[simp] theorem storeTouch_csTpN (v : Bool) (x y : Int) (z1 z2 : Byte) (xr yr : Raw) (s : State) : (storeTouch v x y z1 z2 xr yr s).csTpN = s.csTpN := rfl
@[simp] theorem storeTouch_rstN (v : Bool) (x y : Int) (z1 z2 : Byte) (xr yr : Raw) (s : State) : (storeTouch v x y z1 z2 xr yr s).rstN = s.rstN := rfl
@[simp] theorem storeTouch_sclk (v : Bool) (x y : Int) (z1 z2 : Byte) (xr yr : Raw) (s : State) : (storeTouch v x y z1 z2 xr yr s).sclk = s.sclk := rfl
@[simp] theorem storeTouch_mosi (v : Bool) (x y : Int) (z1 z2 : Byte) (xr yr : Raw) (s : State) : (storeTouch v x y z1 z2 xr yr s).mosi = s.mosi := rfl
@[simp] theorem storeTouch_timer (v : Bool) (x y : Int) (z1 z2 : Byte) (xr yr : Raw) (s : State) : (storeTouch v x y z1 z2 xr yr s).timer = s.timer := rfl
@[simp] theorem storeTouch_trace (v : Bool) (x y : Int) (z1 z2 : Byte) (xr yr : Raw) (s : State) : (storeTouch v x y z1 z2 xr yr s).trace = s.trace := rfl
@[simp] theorem storeTouch_hostOps (v : Bool) (x y : Int) (z1 z2 : Byte) (xr yr : Raw) (s : State) : (storeTouch v x y z1 z2 xr yr s).hostOps = s.hostOps := rfl
@[simp] theorem storeTouch_miso (v : Bool) (x y : Int) (z1 z2 : Byte) (xr yr : Raw) (s : State) : (storeTouch v x y z1 z2 xr yr s).miso = s.miso := rfl
@[simp] theorem storeTouch_misoDraws (v : Bool) (x y : Int) (z1 z2 : Byte) (xr yr : Raw) (s : State) : (storeTouch v x y z1 z2 xr yr s).misoDraws = s.misoDraws := rfl
@[simp] theorem storeTouch_readLog (v : Bool) (x y : Int) (z1 z2 : Byte) (xr yr : Raw) (s : State) : (storeTouch v x y z1 z2 xr yr s).readLog = s.readLog := rfl
@[simp] theorem storeTouch_busyReads (v : Bool) (x y : Int) (z1 z2 : Byte) (xr yr : Raw) (s : State) : (storeTouch v x y z1 z2 xr yr s).busyReads = s.busyReads := rfl
@[simp] theorem storeTouch_epochs (v : Bool) (x y : Int) (z1 z2 : Byte) (xr yr : Raw) (s : State) : (storeTouch v x y z1 z2 xr yr s).epochs = s.epochs := rfl

/-! ### `blockReset` (rules R52, R290) -/

@[simp] theorem blockReset_cfg (s : State) : (blockReset s).cfg = s.cfg := rfl
@[simp] theorem blockReset_ctl (s : State) : (blockReset s).ctl = .unpowered := rfl
@[simp] theorem blockReset_busy (s : State) : (blockReset s).busy = false := rfl
@[simp] theorem blockReset_pend (s : State) : (blockReset s).pend = 0 := rfl
@[simp] theorem blockReset_cbuf (s : State) : (blockReset s).cbuf = [] := rfl
@[simp] theorem blockReset_stream (s : State) : (blockReset s).stream = false := rfl
@[simp] theorem blockReset_owner (s : State) : (blockReset s).owner = none := rfl
@[simp] theorem blockReset_speed (s : State) : (blockReset s).speed = .disp := rfl
@[simp] theorem blockReset_orient (s : State) : (blockReset s).orient = initOrientCode s.cfg := rfl
@[simp] theorem blockReset_winArmed (s : State) : (blockReset s).winArmed = false := rfl
@[simp] theorem blockReset_result (s : State) : (blockReset s).result = .ok := rfl
@[simp] theorem blockReset_errSticky (s : State) : (blockReset s).errSticky = false := rfl
@[simp] theorem blockReset_tValid (s : State) : (blockReset s).tValid = false := rfl
@[simp] theorem blockReset_tX (s : State) : (blockReset s).tX = 0 := rfl
@[simp] theorem blockReset_tY (s : State) : (blockReset s).tY = 0 := rfl
@[simp] theorem blockReset_tZ1 (s : State) : (blockReset s).tZ1 = 0 := rfl
@[simp] theorem blockReset_tZ2 (s : State) : (blockReset s).tZ2 = 0 := rfl
@[simp] theorem blockReset_tPress (s : State) : (blockReset s).tPress = 0 := rfl
@[simp] theorem blockReset_tXraw (s : State) : (blockReset s).tXraw = 0 := rfl
@[simp] theorem blockReset_tYraw (s : State) : (blockReset s).tYraw = 0 := rfl
@[simp] theorem blockReset_csLcdN (s : State) : (blockReset s).csLcdN = true := rfl
@[simp] theorem blockReset_csTpN (s : State) : (blockReset s).csTpN = true := rfl
@[simp] theorem blockReset_rstN (s : State) : (blockReset s).rstN = true := rfl
@[simp] theorem blockReset_sclk (s : State) : (blockReset s).sclk = false := rfl
@[simp] theorem blockReset_mosi (s : State) : (blockReset s).mosi = false := rfl
@[simp] theorem blockReset_timer (s : State) : (blockReset s).timer = 0 := rfl
@[simp] theorem blockReset_trace (s : State) : (blockReset s).trace = [] := rfl
@[simp] theorem blockReset_hostOps (s : State) : (blockReset s).hostOps = s.hostOps := rfl
@[simp] theorem blockReset_miso (s : State) : (blockReset s).miso = s.miso := rfl
@[simp] theorem blockReset_misoDraws (s : State) : (blockReset s).misoDraws = s.misoDraws := rfl
@[simp] theorem blockReset_readLog (s : State) : (blockReset s).readLog = s.readLog := rfl
@[simp] theorem blockReset_busyReads (s : State) : (blockReset s).busyReads = s.busyReads := rfl
@[simp] theorem blockReset_epochs (s : State) : (blockReset s).epochs = s.epochs ++ [s.trace] := rfl

/-! ### `State.driveCs` -/

@[simp] theorem driveCs_cfg (s : State) (p : Periph) (l : Bool) : (s.driveCs p l).cfg = s.cfg := by cases p <;> rfl
@[simp] theorem driveCs_ctl (s : State) (p : Periph) (l : Bool) : (s.driveCs p l).ctl = s.ctl := by cases p <;> rfl
@[simp] theorem driveCs_busy (s : State) (p : Periph) (l : Bool) : (s.driveCs p l).busy = s.busy := by cases p <;> rfl
@[simp] theorem driveCs_pend (s : State) (p : Periph) (l : Bool) : (s.driveCs p l).pend = s.pend := by cases p <;> rfl
@[simp] theorem driveCs_cbuf (s : State) (p : Periph) (l : Bool) : (s.driveCs p l).cbuf = s.cbuf := by cases p <;> rfl
@[simp] theorem driveCs_stream (s : State) (p : Periph) (l : Bool) : (s.driveCs p l).stream = s.stream := by cases p <;> rfl
@[simp] theorem driveCs_owner (s : State) (p : Periph) (l : Bool) : (s.driveCs p l).owner = s.owner := by cases p <;> rfl
@[simp] theorem driveCs_speed (s : State) (p : Periph) (l : Bool) : (s.driveCs p l).speed = s.speed := by cases p <;> rfl
@[simp] theorem driveCs_orient (s : State) (p : Periph) (l : Bool) : (s.driveCs p l).orient = s.orient := by cases p <;> rfl
@[simp] theorem driveCs_winArmed (s : State) (p : Periph) (l : Bool) : (s.driveCs p l).winArmed = s.winArmed := by cases p <;> rfl
@[simp] theorem driveCs_result (s : State) (p : Periph) (l : Bool) : (s.driveCs p l).result = s.result := by cases p <;> rfl
@[simp] theorem driveCs_errSticky (s : State) (p : Periph) (l : Bool) : (s.driveCs p l).errSticky = s.errSticky := by cases p <;> rfl
@[simp] theorem driveCs_tValid (s : State) (p : Periph) (l : Bool) : (s.driveCs p l).tValid = s.tValid := by cases p <;> rfl
@[simp] theorem driveCs_tX (s : State) (p : Periph) (l : Bool) : (s.driveCs p l).tX = s.tX := by cases p <;> rfl
@[simp] theorem driveCs_tY (s : State) (p : Periph) (l : Bool) : (s.driveCs p l).tY = s.tY := by cases p <;> rfl
@[simp] theorem driveCs_tZ1 (s : State) (p : Periph) (l : Bool) : (s.driveCs p l).tZ1 = s.tZ1 := by cases p <;> rfl
@[simp] theorem driveCs_tZ2 (s : State) (p : Periph) (l : Bool) : (s.driveCs p l).tZ2 = s.tZ2 := by cases p <;> rfl
@[simp] theorem driveCs_tPress (s : State) (p : Periph) (l : Bool) : (s.driveCs p l).tPress = s.tPress := by cases p <;> rfl
@[simp] theorem driveCs_tXraw (s : State) (p : Periph) (l : Bool) : (s.driveCs p l).tXraw = s.tXraw := by cases p <;> rfl
@[simp] theorem driveCs_tYraw (s : State) (p : Periph) (l : Bool) : (s.driveCs p l).tYraw = s.tYraw := by cases p <;> rfl
@[simp] theorem driveCs_csLcdN (s : State) (p : Periph) (l : Bool) : (s.driveCs p l).csLcdN = (if p = .lcd then l else s.csLcdN) := by cases p <;> rfl
@[simp] theorem driveCs_csTpN (s : State) (p : Periph) (l : Bool) : (s.driveCs p l).csTpN = (if p = .tp then l else s.csTpN) := by cases p <;> rfl
@[simp] theorem driveCs_rstN (s : State) (p : Periph) (l : Bool) : (s.driveCs p l).rstN = s.rstN := by cases p <;> rfl
@[simp] theorem driveCs_sclk (s : State) (p : Periph) (l : Bool) : (s.driveCs p l).sclk = s.sclk := by cases p <;> rfl
@[simp] theorem driveCs_mosi (s : State) (p : Periph) (l : Bool) : (s.driveCs p l).mosi = s.mosi := by cases p <;> rfl
@[simp] theorem driveCs_timer (s : State) (p : Periph) (l : Bool) : (s.driveCs p l).timer = s.timer := by cases p <;> rfl
@[simp] theorem driveCs_trace (s : State) (p : Periph) (l : Bool) : (s.driveCs p l).trace = s.trace := by cases p <;> rfl
@[simp] theorem driveCs_hostOps (s : State) (p : Periph) (l : Bool) : (s.driveCs p l).hostOps = s.hostOps := by cases p <;> rfl
@[simp] theorem driveCs_miso (s : State) (p : Periph) (l : Bool) : (s.driveCs p l).miso = s.miso := by cases p <;> rfl
@[simp] theorem driveCs_misoDraws (s : State) (p : Periph) (l : Bool) : (s.driveCs p l).misoDraws = s.misoDraws := by cases p <;> rfl
@[simp] theorem driveCs_readLog (s : State) (p : Periph) (l : Bool) : (s.driveCs p l).readLog = s.readLog := by cases p <;> rfl
@[simp] theorem driveCs_busyReads (s : State) (p : Periph) (l : Bool) : (s.driveCs p l).busyReads = s.busyReads := by cases p <;> rfl
@[simp] theorem driveCs_epochs (s : State) (p : Periph) (l : Bool) : (s.driveCs p l).epochs = s.epochs := by cases p <;> rfl

/-! ### `State.dropMiso` -/

@[simp] theorem dropMiso_cfg (s : State) : (s.dropMiso).cfg = s.cfg := by cases h : s.miso <;> simp [State.dropMiso, h]
@[simp] theorem dropMiso_ctl (s : State) : (s.dropMiso).ctl = s.ctl := by cases h : s.miso <;> simp [State.dropMiso, h]
@[simp] theorem dropMiso_busy (s : State) : (s.dropMiso).busy = s.busy := by cases h : s.miso <;> simp [State.dropMiso, h]
@[simp] theorem dropMiso_pend (s : State) : (s.dropMiso).pend = s.pend := by cases h : s.miso <;> simp [State.dropMiso, h]
@[simp] theorem dropMiso_cbuf (s : State) : (s.dropMiso).cbuf = s.cbuf := by cases h : s.miso <;> simp [State.dropMiso, h]
@[simp] theorem dropMiso_stream (s : State) : (s.dropMiso).stream = s.stream := by cases h : s.miso <;> simp [State.dropMiso, h]
@[simp] theorem dropMiso_owner (s : State) : (s.dropMiso).owner = s.owner := by cases h : s.miso <;> simp [State.dropMiso, h]
@[simp] theorem dropMiso_speed (s : State) : (s.dropMiso).speed = s.speed := by cases h : s.miso <;> simp [State.dropMiso, h]
@[simp] theorem dropMiso_orient (s : State) : (s.dropMiso).orient = s.orient := by cases h : s.miso <;> simp [State.dropMiso, h]
@[simp] theorem dropMiso_winArmed (s : State) : (s.dropMiso).winArmed = s.winArmed := by cases h : s.miso <;> simp [State.dropMiso, h]
@[simp] theorem dropMiso_result (s : State) : (s.dropMiso).result = s.result := by cases h : s.miso <;> simp [State.dropMiso, h]
@[simp] theorem dropMiso_errSticky (s : State) : (s.dropMiso).errSticky = s.errSticky := by cases h : s.miso <;> simp [State.dropMiso, h]
@[simp] theorem dropMiso_tValid (s : State) : (s.dropMiso).tValid = s.tValid := by cases h : s.miso <;> simp [State.dropMiso, h]
@[simp] theorem dropMiso_tX (s : State) : (s.dropMiso).tX = s.tX := by cases h : s.miso <;> simp [State.dropMiso, h]
@[simp] theorem dropMiso_tY (s : State) : (s.dropMiso).tY = s.tY := by cases h : s.miso <;> simp [State.dropMiso, h]
@[simp] theorem dropMiso_tZ1 (s : State) : (s.dropMiso).tZ1 = s.tZ1 := by cases h : s.miso <;> simp [State.dropMiso, h]
@[simp] theorem dropMiso_tZ2 (s : State) : (s.dropMiso).tZ2 = s.tZ2 := by cases h : s.miso <;> simp [State.dropMiso, h]
@[simp] theorem dropMiso_tPress (s : State) : (s.dropMiso).tPress = s.tPress := by cases h : s.miso <;> simp [State.dropMiso, h]
@[simp] theorem dropMiso_tXraw (s : State) : (s.dropMiso).tXraw = s.tXraw := by cases h : s.miso <;> simp [State.dropMiso, h]
@[simp] theorem dropMiso_tYraw (s : State) : (s.dropMiso).tYraw = s.tYraw := by cases h : s.miso <;> simp [State.dropMiso, h]
@[simp] theorem dropMiso_csLcdN (s : State) : (s.dropMiso).csLcdN = s.csLcdN := by cases h : s.miso <;> simp [State.dropMiso, h]
@[simp] theorem dropMiso_csTpN (s : State) : (s.dropMiso).csTpN = s.csTpN := by cases h : s.miso <;> simp [State.dropMiso, h]
@[simp] theorem dropMiso_rstN (s : State) : (s.dropMiso).rstN = s.rstN := by cases h : s.miso <;> simp [State.dropMiso, h]
@[simp] theorem dropMiso_sclk (s : State) : (s.dropMiso).sclk = s.sclk := by cases h : s.miso <;> simp [State.dropMiso, h]
@[simp] theorem dropMiso_mosi (s : State) : (s.dropMiso).mosi = s.mosi := by cases h : s.miso <;> simp [State.dropMiso, h]
@[simp] theorem dropMiso_timer (s : State) : (s.dropMiso).timer = s.timer := by cases h : s.miso <;> simp [State.dropMiso, h]
@[simp] theorem dropMiso_trace (s : State) : (s.dropMiso).trace = s.trace := by cases h : s.miso <;> simp [State.dropMiso, h]
@[simp] theorem dropMiso_hostOps (s : State) : (s.dropMiso).hostOps = s.hostOps := by cases h : s.miso <;> simp [State.dropMiso, h]
@[simp] theorem dropMiso_miso (s : State) : (s.dropMiso).miso = s.miso.drop 1 := by cases h : s.miso <;> simp [State.dropMiso, h]
@[simp] theorem dropMiso_misoDraws (s : State) : (s.dropMiso).misoDraws = s.misoDraws + (1 - s.miso.length) := by cases h : s.miso <;> simp [State.dropMiso, h]
@[simp] theorem dropMiso_readLog (s : State) : (s.dropMiso).readLog = s.readLog := by cases h : s.miso <;> simp [State.dropMiso, h]
@[simp] theorem dropMiso_busyReads (s : State) : (s.dropMiso).busyReads = s.busyReads := by cases h : s.miso <;> simp [State.dropMiso, h]
@[simp] theorem dropMiso_epochs (s : State) : (s.dropMiso).epochs = s.epochs := by cases h : s.miso <;> simp [State.dropMiso, h]

end Sys2Proof.Machine
end

