-- ==== Sys2Proof/Laws/Ops.lean ====
section
/-! SUPPORT. What each shared operation can do, said once: when it answers a state and which one. Later proofs cite these
lemmas and do not unfold the operations. -/

namespace Sys2Proof.Machine

/-! ### Sequencing -/

@[simp] theorem except_bind_eq_ok {α β : Type} (r : Except Fault α) (f : α → Except Fault β) (b : β) :
    (r >>= f) = .ok b ↔ ∃ a, r = .ok a ∧ f a = .ok b := by
  cases r <;> simp [bind, Except.bind]

@[simp] theorem except_ok_bind {α β : Type} (a : α) (f : α → Except Fault β) :
    ((.ok a : Except Fault α) >>= f) = f a := rfl

/-- `chooseBranch` is the `if` it stands for. -/
theorem chooseBranch_eq (c : Bool) (a b : Except Fault State) : chooseBranch c a b = if c then a else b := by
  cases a <;> cases b <;> cases c <;> rfl

theorem finish_eq_next (r : Except Fault State) (t : State) :
    finish r = .next t ↔ ∃ u, r = .ok u ∧ t = complete .ok u := by
  cases r <;> simp [finish, eq_comm]

/-! ### Wire primitives -/

theorem acquire_eq_ok (p : Periph) (s t : State) :
    acquire p s = .ok t ↔ (s.owner = none ∧ s.csLcdN = true ∧ s.csTpN = true) ∧
      t = { s with owner := some p, speed := rated p, trace := s.trace ++ [.speed (rated p)] } := by
  simp only [acquire, bothDeselected, Bool.and_eq_true]
  split <;> rename_i h
  · simp [h, State.emit, eq_comm]
  · simp [h]

theorem release_eq_ok (s t : State) :
    release s = .ok t ↔ (s.owner ≠ none ∧ s.csLcdN = true ∧ s.csTpN = true) ∧ t = { s with owner := none } := by
  simp only [release, bothDeselected, Bool.and_eq_true]
  split <;> rename_i h
  · simp [h, eq_comm]
  · simp [h]

theorem select_eq_ok (p : Periph) (s t : State) :
    select p s = .ok t ↔ (s.owner = some p ∧ s.csLcdN = true ∧ s.csTpN = true) ∧
      t = { (s.driveCs p false) with trace := s.trace ++ [.cs p false] } := by
  simp only [select, bothDeselected, Bool.and_eq_true]
  split <;> rename_i h
  · simp [h, State.emit, eq_comm]
  · simp [h]

theorem deselect_eq_ok (p : Periph) (s t : State) :
    deselect p s = .ok t ↔ s.owner = some p ∧
      t = { (s.driveCs p true) with trace := s.trace ++ [.cs p true] } := by
  simp only [deselect]
  split <;> rename_i h
  · simp [h, State.emit, eq_comm]
  · simp [h]

/-- A transfer with the display selected. -/
theorem xfer_lcd (o : Byte) (s t : State) (h : s.owner = some .lcd) :
    xfer o s = .ok t ↔ (s.csLcdN = false ∧ s.csTpN = true ∧ s.speed = .disp) ∧
      t = s.shifted (.xfer .lcd o none) := by
  simp only [xfer, h, onlySelected, rated, Bool.and_eq_true, Bool.not_eq_true']
  split <;> rename_i g
  · simp [g, eq_comm]
  · rw [and_assoc] at g; simp [g]

/-- A transfer with the touch controller selected. -/
theorem xfer_tp (o : Byte) (s t : State) (h : s.owner = some .tp) :
    xfer o s = .ok t ↔ (s.csLcdN = true ∧ s.csTpN = false ∧ s.speed = .touch) ∧
      t = s.dropMiso.shifted (.xfer .tp o (some (nextMiso s))) := by
  simp only [xfer, h, onlySelected, rated, Bool.and_eq_true, Bool.not_eq_true']
  split <;> rename_i g
  · simp [g, eq_comm]
  · rw [and_assoc] at g; simp [g]

theorem xfer_no_owner (o : Byte) (s : State) (h : s.owner = none) : xfer o s = .error (.modelDefect .xfer) := by
  simp [xfer, h]

theorem xferIn_eq_ok (o : Byte) (s t : State) (b : Byte) :
    xferIn o s = .ok (b, t) ↔ xfer o s = .ok t ∧ b = nextMiso s := by
  simp only [xferIn, except_bind_eq_ok, Except.ok.injEq, Prod.mk.injEq]
  constructor
  · rintro ⟨a, h, rfl, rfl⟩; exact ⟨h, rfl⟩
  · rintro ⟨h, rfl⟩; exact ⟨t, h, rfl, rfl⟩

theorem wait_eq_ok (n : Nat) (s t : State) :
    wait n s = .ok t ↔ s.cfg.trueTicksPerMs ≤ s.cfg.ticksPerMs ∧
      t = { s with timer := 0, trace := s.trace ++ [.wait n] } := by
  simp only [wait]
  split <;> rename_i h
  · simp [Nat.not_le.mpr h]
  · simp [Nat.not_lt.mp h, State.emit, State.timerExpired, State.loadTimer, eq_comm]

/-- A wait fails only by being too short (rule R191). -/
theorem wait_eq_error (n : Nat) (s : State) (f : Fault) :
    wait n s = .error f ↔ s.cfg.ticksPerMs < s.cfg.trueTicksPerMs ∧ f = .waitTooShort := by
  simp only [wait]
  split <;> rename_i h <;> simp [h, eq_comm]

theorem resetLine_eq (l : Bool) (s : State) :
    resetLine l s = { s with rstN := l, trace := s.trace ++ [.rst l] } := rfl

end Sys2Proof.Machine
end

