-- ==== Sys2Proof/Laws/Brackets.lean ====
section
/-! SUPPORT. What the display brackets and the register, window and init-table writes built from them can do: the one
state each can answer (rules R151, R155, R195). -/

namespace Sys2Proof.Machine

/-- The precondition of every display bracket: the display owns the bus at its speed and nothing is selected. -/
def LcdReady (s : State) : Prop := s.owner = some .lcd ∧ s.csLcdN = true ∧ s.csTpN = true ∧ s.speed = .disp

/-- The state after display brackets that appended `es`, the SPI lines left at `c` and `m`. -/
def State.afterLcd (s : State) (es : List Event) (c m : Bool) : State :=
  { s with trace := s.trace ++ es, sclk := c, mosi := m }

theorem lcdBracket_eq_ok (a b : Byte) (s t : State) :
    lcdBracket a b s = .ok t ↔ LcdReady s ∧
      t = s.afterLcd (bracketEvents a b) false (Config.mosiIdle s.epochs.length (s.trace.length + 2)) := by
  simp only [lcdBracket, except_bind_eq_ok, select_eq_ok, deselect_eq_ok]
  constructor
  · rintro ⟨s1, ⟨⟨ho, hl, ht⟩, rfl⟩, s2, h2, s3, h3, -, rfl⟩
    rw [xfer_lcd _ _ _ (by simpa using ho)] at h2
    obtain ⟨⟨-, -, hs⟩, rfl⟩ := h2
    rw [xfer_lcd _ _ _ (by simpa using ho)] at h3
    obtain ⟨-, rfl⟩ := h3
    cases s
    simp_all [LcdReady, State.afterLcd, State.driveCs, State.shifted, bracketEvents]
  · rintro ⟨⟨ho, hl, ht, hs⟩, rfl⟩
    refine ⟨_, ⟨⟨ho, hl, ht⟩, rfl⟩, _, (xfer_lcd _ _ _ (by simpa using ho)).mpr ⟨by simpa using ⟨ht, hs⟩, rfl⟩, _,
      (xfer_lcd _ _ _ (by simpa using ho)).mpr ⟨by simpa using ⟨ht, hs⟩, rfl⟩, by simpa using ho, ?_⟩
    cases s
    simp_all [State.afterLcd, State.driveCs, State.shifted, bracketEvents]

@[simp] theorem afterLcd_ready (s : State) (es : List Event) (c m : Bool) :
    LcdReady (s.afterLcd es c m) ↔ LcdReady s := Iff.rfl

@[simp] theorem afterLcd_afterLcd (s : State) (es fs : List Event) (c m d n : Bool) :
    (s.afterLcd es c m).afterLcd fs d n = s.afterLcd (es ++ fs) d n := by
  simp [State.afterLcd]

@[simp] theorem afterLcd_cfg (s : State) (es : List Event) (c m : Bool) : (s.afterLcd es c m).cfg = s.cfg := rfl
@[simp] theorem afterLcd_orient (s : State) (es : List Event) (c m : Bool) : (s.afterLcd es c m).orient = s.orient := rfl
@[simp] theorem afterLcd_trace (s : State) (es : List Event) (c m : Bool) : (s.afterLcd es c m).trace = s.trace ++ es := rfl
@[simp] theorem afterLcd_epochs (s : State) (es : List Event) (c m : Bool) : (s.afterLcd es c m).epochs = s.epochs := rfl
@[simp] theorem afterLcd_self (s : State) : s.afterLcd [] s.sclk s.mosi = s := by simp [State.afterLcd]

/-- `RegWrite` (rule R151). -/
theorem regWrite_eq_ok (a v : Byte) (s t : State) :
    regWrite a v s = .ok t ↔ LcdReady s ∧
      t = s.afterLcd (regWriteEvents s.cfg a v) false (Config.mosiIdle s.epochs.length (s.trace.length + 6)) := by
  simp only [regWrite, except_bind_eq_ok, lcdBracket_eq_ok]
  constructor
  · rintro ⟨s1, ⟨h, rfl⟩, -, rfl⟩
    exact ⟨h, by simp [regWriteEvents, bracketEvents]⟩
  · rintro ⟨h, rfl⟩
    exact ⟨_, ⟨h, rfl⟩, by simpa using h, by simp [regWriteEvents, bracketEvents]⟩

/-- Register writes one after the other: their events in order, and some levels of the SPI lines. -/
theorem regWrites_eq_ok (ws : List (Byte × Byte)) (s t : State) (h : regWrites ws s = .ok t) :
    ∃ c m, (c = s.sclk ∨ c = false) ∧ t = s.afterLcd (regWritesEvents s.cfg ws) c m := by
  induction ws generalizing s with
  | nil =>
    obtain rfl : s = t := by simpa [regWrites] using h
    exact ⟨s.sclk, s.mosi, .inl rfl, by simp [regWritesEvents]⟩
  | cons w rest ih =>
    obtain ⟨a, v⟩ := w
    simp only [regWrites, except_bind_eq_ok, regWrite_eq_ok] at h
    obtain ⟨s1, ⟨-, rfl⟩, h⟩ := h
    obtain ⟨c, m, hc, rfl⟩ := ih _ h
    exact ⟨c, m, .inr (hc.elim id id), by simp [regWritesEvents]⟩

/-- Register writes answer a state whenever the display owns the idle bus at its speed. -/
theorem regWrites_ok (ws : List (Byte × Byte)) (s : State) (h : LcdReady s) : ∃ t, regWrites ws s = .ok t := by
  induction ws generalizing s with
  | nil => exact ⟨s, rfl⟩
  | cons w rest ih =>
    obtain ⟨a, v⟩ := w
    obtain ⟨t, ht⟩ := ih _ ((afterLcd_ready s (regWriteEvents s.cfg a v) false
      (Config.mosiIdle s.epochs.length (s.trace.length + 6))).mpr h)
    exact ⟨t, by simp only [regWrites, except_bind_eq_ok, regWrite_eq_ok]; exact ⟨_, ⟨h, rfl⟩, ht⟩⟩

/-- `WinWrite` (rule R155). -/
theorem winWrite_eq_ok (x0 y0 x1 y1 : Half) (s t : State) (h : winWrite x0 y0 x1 y1 s = .ok t) :
    ∃ c m, (c = s.sclk ∨ c = false) ∧ t = s.afterLcd (windowEvents s.cfg x0 y0 x1 y1) c m :=
  regWrites_eq_ok _ _ _ h

theorem winWrite_ok (x0 y0 x1 y1 : Half) (s : State) (h : LcdReady s) : ∃ t, winWrite x0 y0 x1 y1 s = .ok t :=
  regWrites_ok _ _ h

/-- The state after the steps of an init table: the SPI lines and the timer aside, only the trace has grown. -/
def State.afterTable (s : State) (es : List Event) (c m : Bool) (n : Nat) : State :=
  { s with trace := s.trace ++ es, sclk := c, mosi := m, timer := n }

@[simp] theorem afterTable_ready (s : State) (es : List Event) (c m : Bool) (n : Nat) :
    LcdReady (s.afterTable es c m n) ↔ LcdReady s := Iff.rfl
@[simp] theorem afterTable_afterTable (s : State) (es fs : List Event) (c m d k : Bool) (n l : Nat) :
    (s.afterTable es c m n).afterTable fs d k l = s.afterTable (es ++ fs) d k l := by simp [State.afterTable]
@[simp] theorem afterTable_cfg (s : State) (es : List Event) (c m : Bool) (n : Nat) :
    (s.afterTable es c m n).cfg = s.cfg := rfl
@[simp] theorem afterTable_orient (s : State) (es : List Event) (c m : Bool) (n : Nat) :
    (s.afterTable es c m n).orient = s.orient := rfl
@[simp] theorem afterTable_self (s : State) : s.afterTable [] s.sclk s.mosi s.timer = s := by simp [State.afterTable]

theorem afterLcd_eq_afterTable (s : State) (es : List Event) (c m : Bool) :
    s.afterLcd es c m = s.afterTable es c m s.timer := rfl

/-- One step of an init table (rule R195). The timer is left as it was, or idle. -/
theorem runInitStep_eq_ok (step : InitStep) (s t : State) (h : runInitStep step s = .ok t) :
    ∃ c m n, (n = s.timer ∨ n = 0) ∧ (c = s.sclk ∨ c = false) ∧
      t = s.afterTable (initStepEvents s.cfg s.orient step) c m n := by
  cases step with
  | wr _ a v =>
    obtain ⟨-, rfl⟩ := (regWrite_eq_ok a v s t).mp h
    exact ⟨_, _, _, .inl rfl, .inr rfl, afterLcd_eq_afterTable _ _ _ _⟩
  | dly n =>
    obtain ⟨-, rfl⟩ := (wait_eq_ok n s t).mp h
    exact ⟨s.sclk, s.mosi, 0, .inr rfl, .inl rfl, rfl⟩
  | win =>
    obtain ⟨c, m, hc, rfl⟩ := winWrite_eq_ok _ _ _ _ s t h
    exact ⟨c, m, s.timer, .inl rfl, hc, rfl⟩

/-- The steps of an init table (rule R201). -/
theorem runInitTable_eq_ok (tab : List InitStep) (s t : State) (h : runInitTable tab s = .ok t) :
    ∃ c m n, (n = s.timer ∨ n = 0) ∧ (c = s.sclk ∨ c = false) ∧
      t = s.afterTable (initTableEvents s.cfg s.orient tab) c m n := by
  induction tab generalizing s with
  | nil =>
    obtain rfl : s = t := by simpa [runInitTable] using h
    exact ⟨s.sclk, s.mosi, s.timer, .inl rfl, .inl rfl, by simp [initTableEvents]⟩
  | cons step rest ih =>
    simp only [runInitTable, except_bind_eq_ok] at h
    obtain ⟨s1, h1, h2⟩ := h
    obtain ⟨c1, m1, n1, hn1, hc1, rfl⟩ := runInitStep_eq_ok step s s1 h1
    obtain ⟨c2, m2, n2, hn2, hc2, rfl⟩ := ih _ h2
    refine ⟨c2, m2, n2, ?_, ?_, by simp [initTableEvents]⟩
    · rcases hn2 with rfl | rfl
      · exact hn1
      · exact .inr rfl
    · rcases hc2 with rfl | rfl
      · exact hc1
      · exact .inr rfl

/-- The steps of an init table answer a state whenever the display owns the idle bus at its speed and waits are long
enough. -/
theorem runInitTable_ok (tab : List InitStep) (s : State) (h : LcdReady s) (hw : WaitsLongEnough s.cfg) :
    ∃ t, runInitTable tab s = .ok t := by
  induction tab generalizing s with
  | nil => exact ⟨s, rfl⟩
  | cons step rest ih =>
    have hstep : ∃ t, runInitStep step s = .ok t := by
      cases step with
      | wr _ a v => exact ⟨_, (regWrite_eq_ok a v s _).mpr ⟨h, rfl⟩⟩
      | dly n => exact ⟨_, (wait_eq_ok n s _).mpr ⟨hw, rfl⟩⟩
      | win => exact winWrite_ok _ _ _ _ _ h
    obtain ⟨s1, h1⟩ := hstep
    obtain ⟨c, m, n, -, -, rfl⟩ := runInitStep_eq_ok step s s1 h1
    obtain ⟨t, ht⟩ := ih _ ((afterTable_ready _ _ _ _ _).mpr h) hw
    exact ⟨t, by simp only [runInitTable, except_bind_eq_ok]; exact ⟨_, h1, ht⟩⟩

end Sys2Proof.Machine
end

