-- ==== Sys2Proof/Laws/Touch.lean ====
section
/-! SUPPORT. What the touch brackets and the two polls can do: the one state each can answer, and which MISO bytes its
samples are (rules R222 to R224, R240). -/

namespace Sys2Proof.Machine

/-- The precondition of every touch bracket. -/
def TpReady (s : State) : Prop := s.owner = some .tp ∧ s.csLcdN = true ∧ s.csTpN = true ∧ s.speed = .touch

/-- The state after touch brackets that appended `es` and took `k` MISO bytes, MOSI left at `m`. -/
def State.afterTp (s : State) (es : List Event) (k : Nat) (m : Bool) : State :=
  { s with
    trace := s.trace ++ es
    miso := s.miso.drop k
    misoDraws := s.misoDraws + (k - s.miso.length)
    sclk := false
    mosi := m }

theorem nextMiso_eq_misoByte (s : State) : nextMiso s = misoByte s 0 := by
  cases h : s.miso <;> simp [nextMiso, misoByte, h]

/-- The bytes after `k` have been taken are those from the `k`-th on. -/
theorem misoByte_shift (s t : State) (k n : Nat) (hm : t.miso = s.miso.drop k)
    (hd : t.misoDraws = s.misoDraws + (k - s.miso.length)) : misoByte t n = misoByte s (k + n) := by
  have hk : (s.miso.drop k)[n]? = s.miso[k + n]? := by simp
  rw [misoByte, misoByte, hm, hd, hk]
  by_cases h : k + n < s.miso.length
  · simp [h]
  · have : s.misoDraws + (k - s.miso.length) + (n - (s.miso.drop k).length) =
        s.misoDraws + (k + n - s.miso.length) := by
      simp only [List.length_drop]; omega
    rw [this]

@[simp] theorem misoByte_afterTp (s : State) (es : List Event) (k n : Nat) (m : Bool) :
    misoByte (s.afterTp es k m) n = misoByte s (k + n) := misoByte_shift _ _ _ _ rfl rfl

@[simp] theorem misoByte_dropMiso_shifted (s : State) (e : Event) (n : Nat) :
    misoByte (s.dropMiso.shifted e) n = misoByte s (1 + n) := misoByte_shift _ _ _ _ (by simp) (by simp)

@[simp] theorem afterTp_ready (s : State) (es : List Event) (k : Nat) (m : Bool) :
    TpReady (s.afterTp es k m) ↔ TpReady s := Iff.rfl
@[simp] theorem afterTp_cfg (s : State) (es : List Event) (k : Nat) (m : Bool) : (s.afterTp es k m).cfg = s.cfg := rfl
@[simp] theorem afterTp_orient (s : State) (es : List Event) (k : Nat) (m : Bool) :
    (s.afterTp es k m).orient = s.orient := rfl

@[simp] theorem afterTp_afterTp (s : State) (es fs : List Event) (k l : Nat) (m n : Bool) :
    (s.afterTp es k m).afterTp fs l n = s.afterTp (es ++ fs) (k + l) n := by
  have h : s.misoDraws + (k - s.miso.length) + (l - (s.miso.length - k)) =
      s.misoDraws + (k + l - s.miso.length) := by omega
  simp [State.afterTp, h]

/-- What a transfer to the touch controller leaves, as a state after touch brackets. -/
theorem dropMiso_shifted_eq (s : State) (e : Event) :
    s.dropMiso.shifted e = s.afterTp [e] 1 (Config.mosiIdle s.epochs.length s.trace.length) := by
  cases h : s.miso <;> simp [State.dropMiso, State.shifted, State.afterTp, h]

/-- A transfer while the touch controller is selected. -/
def TpSelected (s : State) : Prop := s.owner = some .tp ∧ s.csLcdN = true ∧ s.csTpN = false ∧ s.speed = .touch

@[simp] theorem afterTp_selected (s : State) (es : List Event) (k : Nat) (m : Bool) :
    TpSelected (s.afterTp es k m) ↔ TpSelected s := Iff.rfl

theorem xfer_selected (o : Byte) (s t : State) (hs : TpSelected s) :
    xfer o s = .ok t ↔ t = s.afterTp [.xfer .tp o (some (misoByte s 0))] 1
      (Config.mosiIdle s.epochs.length s.trace.length) := by
  rw [xfer_tp _ _ _ hs.1, dropMiso_shifted_eq, nextMiso_eq_misoByte]
  exact ⟨fun h => h.2, fun h => ⟨hs.2, h⟩⟩

theorem xferIn_selected (o : Byte) (s t : State) (b : Byte) (hs : TpSelected s) :
    xferIn o s = .ok (b, t) ↔ b = misoByte s 0 ∧ t = s.afterTp [.xfer .tp o (some (misoByte s 0))] 1
      (Config.mosiIdle s.epochs.length s.trace.length) := by
  rw [xferIn_eq_ok, xfer_selected _ _ _ hs, nextMiso_eq_misoByte, and_comm]

/-- `Select(TP)` leaves the touch controller selected, at touch speed or not. -/
theorem select_tp_eq_ok (s t : State) :
    select .tp s = .ok t ↔ (s.owner = some .tp ∧ s.csLcdN = true ∧ s.csTpN = true) ∧
      t = { s with csTpN := false, trace := s.trace ++ [.cs .tp false] } := select_eq_ok .tp s t

theorem deselect_tp_eq_ok (s t : State) :
    deselect .tp s = .ok t ↔ s.owner = some .tp ∧
      t = { s with csTpN := true, trace := s.trace ++ [.cs .tp true] } := deselect_eq_ok .tp s t

/-- A transfer that succeeds with the touch controller owning the bus finds it selected. -/
theorem xfer_ok_selected (o : Byte) (s t : State) (ho : s.owner = some .tp) (h : xfer o s = .ok t) : TpSelected s := by
  rw [xfer_tp _ _ _ ho] at h
  exact ⟨ho, h.1⟩

/-- `AdcRead8` (rule R222). -/
theorem adcRead8_eq_ok (ch : Channel) (s t : State) (r : Byte) :
    adcRead8 ch s = .ok (r, t) ↔ TpReady s ∧ r = misoByte s 1 ∧
      t = s.afterTp (adc8Events s.cfg ch (misoByte s 0) (misoByte s 1)) 2
        (Config.mosiIdle s.epochs.length (s.trace.length + 2)) := by
  simp only [adcRead8, except_bind_eq_ok, select_tp_eq_ok, deselect_tp_eq_ok]
  constructor
  · rintro ⟨s1, ⟨⟨ho, hl, ht⟩, rfl⟩, s2, h2, ⟨r', s3⟩, h3, s4, ⟨-, rfl⟩, h5⟩
    have hsel := xfer_ok_selected _ _ _ (by exact ho) h2
    rw [xfer_selected _ _ _ hsel] at h2
    subst h2
    rw [xferIn_selected _ _ _ _ (by simpa using hsel)] at h3
    obtain ⟨rfl, rfl⟩ := h3
    simp only [Except.ok.injEq, Prod.mk.injEq] at h5
    obtain ⟨rfl, rfl⟩ := h5
    refine ⟨⟨ho, hl, ht, hsel.2.2.2⟩, by simp only [misoByte_afterTp]; rfl, ?_⟩
    simp only [afterTp_afterTp, misoByte_afterTp]
    cases s
    simp_all [State.afterTp, adc8Events, misoByte]
  · rintro ⟨⟨ho, hl, ht, hs⟩, rfl, rfl⟩
    have hsel : TpSelected { s with csTpN := false, trace := s.trace ++ [.cs .tp false] } := ⟨ho, hl, rfl, hs⟩
    refine ⟨_, ⟨⟨ho, hl, ht⟩, rfl⟩, _, (xfer_selected _ _ _ hsel).mpr rfl, (misoByte s 1, _),
      (xferIn_selected _ _ _ _ ((afterTp_selected _ _ _ _).mpr hsel)).mpr
        ⟨by rw [misoByte_afterTp]; rfl, rfl⟩, _, ⟨ho, rfl⟩, ?_⟩
    simp only [afterTp_afterTp, misoByte_afterTp]
    cases s
    simp_all [State.afterTp, adc8Events, misoByte]

/-- `AdcRead12` (rule R223). -/
theorem adcRead12_eq_ok (ch : Channel) (s t : State) (r : Raw) :
    adcRead12 ch s = .ok (r, t) ↔ TpReady s ∧ r = rawSample (misoByte s 1) (misoByte s 2) ∧
      t = s.afterTp (adc12Events s.cfg ch (misoByte s 0) (misoByte s 1) (misoByte s 2)) 3
        (Config.mosiIdle s.epochs.length (s.trace.length + 3)) := by
  simp only [adcRead12, except_bind_eq_ok, select_tp_eq_ok, deselect_tp_eq_ok]
  constructor
  · rintro ⟨s1, ⟨⟨ho, hl, ht⟩, rfl⟩, s2, h2, ⟨r', s3⟩, h3, ⟨r'', s4⟩, h4, s5, ⟨-, rfl⟩, h6⟩
    have hsel := xfer_ok_selected _ _ _ (by exact ho) h2
    rw [xfer_selected _ _ _ hsel] at h2
    subst h2
    rw [xferIn_selected _ _ _ _ (by simpa using hsel)] at h3
    obtain ⟨rfl, rfl⟩ := h3
    rw [xferIn_selected _ _ _ _ (by simpa using hsel)] at h4
    obtain ⟨rfl, rfl⟩ := h4
    simp only [Except.ok.injEq, Prod.mk.injEq] at h6
    obtain ⟨rfl, rfl⟩ := h6
    refine ⟨⟨ho, hl, ht, hsel.2.2.2⟩, by simp only [afterTp_afterTp, misoByte_afterTp]; rfl, ?_⟩
    simp only [afterTp_afterTp, misoByte_afterTp]
    cases s
    simp_all [State.afterTp, adc12Events, misoByte]
  · rintro ⟨⟨ho, hl, ht, hs⟩, rfl, rfl⟩
    have hsel : TpSelected { s with csTpN := false, trace := s.trace ++ [.cs .tp false] } := ⟨ho, hl, rfl, hs⟩
    refine ⟨_, ⟨⟨ho, hl, ht⟩, rfl⟩, _, (xfer_selected _ _ _ hsel).mpr rfl, (misoByte s 1, _),
      (xferIn_selected _ _ _ _ ((afterTp_selected _ _ _ _).mpr hsel)).mpr
        ⟨by rw [misoByte_afterTp]; rfl, rfl⟩, (misoByte s 2, _),
      (xferIn_selected _ _ _ _ (by simpa using hsel)).mpr
        ⟨by simp only [misoByte_afterTp]; rfl, rfl⟩, _, ⟨ho, rfl⟩, ?_⟩
    simp only [afterTp_afterTp, misoByte_afterTp]
    cases s
    simp_all [State.afterTp, adc12Events, misoByte]

/-- Two conversions of one axis, the second kept (rule R224). -/
theorem adcReadTwice_eq_ok (ch : Channel) (s t : State) (r : Raw) :
    adcReadTwice ch s = .ok (r, t) ↔ TpReady s ∧ r = rawSample (misoByte s 4) (misoByte s 5) ∧
      t = s.afterTp (adc12Events s.cfg ch (misoByte s 0) (misoByte s 1) (misoByte s 2) ++
          adc12Events s.cfg ch (misoByte s 3) (misoByte s 4) (misoByte s 5)) 6
        (Config.mosiIdle s.epochs.length (s.trace.length + 8)) := by
  simp only [adcReadTwice, except_bind_eq_ok, Prod.exists, adcRead12_eq_ok]
  constructor
  · rintro ⟨r', s1, ⟨h, rfl, rfl⟩, -, rfl, rfl⟩
    exact ⟨h, by simp, by
      simp only [afterTp_afterTp, misoByte_afterTp, afterTp_cfg]
      simp [State.afterTp, adc12Events]⟩
  · rintro ⟨h, rfl, rfl⟩
    refine ⟨_, _, ⟨h, rfl, rfl⟩, by simpa using h, by simp, ?_⟩
    simp only [afterTp_afterTp, misoByte_afterTp, afterTp_cfg]
    simp [State.afterTp, adc12Events]

end Sys2Proof.Machine
end

