-- ==== Sys2Proof/Laws/Commands.lean ====
section
/-! SUPPORT. What the effect of each command can do once its guards have passed: when it answers a state, and which one
(rules R152 to R175, R190 to R211, R240). The completion step is not part of it. -/

namespace Sys2Proof.Machine

/-- What `Acquire` asks of the bus (rule R126). -/
def BusFree (s : State) : Prop := s.owner = none ∧ s.csLcdN = true ∧ s.csTpN = true

theorem acquire_ok_iff (p : Periph) (s t : State) :
    acquire p s = .ok t ↔ BusFree s ∧
      t = { s with owner := some p, speed := rated p, trace := s.trace ++ [.speed (rated p)] } :=
  acquire_eq_ok p s t

/-- The state after a display command that acquired and released the bus, its brackets having appended `es`. -/
def State.afterDisplay (s : State) (es : List Event) (c m : Bool) : State :=
  { s with
    speed := .disp
    trace := s.trace ++ (.speed .disp :: es)
    sclk := c
    mosi := m }

/-- The state while the display owns the bus it has just acquired. -/
def State.withLcd (s : State) : State :=
  { s with
    owner := some .lcd
    speed := .disp
    trace := s.trace ++ [.speed .disp] }

theorem acquire_lcd (s t : State) : acquire .lcd s = .ok t ↔ BusFree s ∧ t = s.withLcd := acquire_ok_iff .lcd s t

theorem withLcd_ready (s : State) (h : BusFree s) : LcdReady s.withLcd := ⟨rfl, h.2.1, h.2.2, rfl⟩

/-- Releasing the bus after display brackets. -/
theorem release_afterLcd (s t : State) (es : List Event) (c m : Bool) (h : BusFree s) :
    release (s.withLcd.afterLcd es c m) = .ok t ↔ t = s.afterDisplay es c m := by
  rw [release_eq_ok]
  obtain ⟨ho, hl, ht⟩ := h
  constructor
  · rintro ⟨-, rfl⟩
    cases s
    simp_all [State.withLcd, State.afterLcd, State.afterDisplay]
  · rintro rfl
    refine ⟨⟨by simp [State.withLcd, State.afterLcd], hl, ht⟩, ?_⟩
    cases s
    simp_all [State.withLcd, State.afterLcd, State.afterDisplay]

/-! ### WRREG, SETORI, SETWIN, CONFIG -/

theorem writeOneRegister_eq_ok (a v : Byte) (s t : State) :
    writeOneRegister a v s = .ok t ↔ BusFree s ∧ t = s.afterDisplay (regWriteEvents s.cfg a v) false
      (Config.mosiIdle s.epochs.length (s.trace.length + 7)) := by
  simp only [writeOneRegister, except_bind_eq_ok, acquire_lcd, regWrite_eq_ok]
  constructor
  · rintro ⟨_, ⟨h, rfl⟩, _, ⟨-, rfl⟩, h2⟩
    rw [release_afterLcd _ _ _ _ _ h] at h2
    exact ⟨h, by rw [h2]; simp [State.withLcd]⟩
  · rintro ⟨h, rfl⟩
    refine ⟨_, ⟨h, rfl⟩, _, ⟨withLcd_ready s h, rfl⟩, ?_⟩
    rw [release_afterLcd _ _ _ _ _ h]
    simp [State.withLcd]

theorem writeOrientation_eq_ok (o : BitVec 2) (s t : State) :
    writeOrientation o s = .ok t ↔ BusFree s ∧
      t = { (s.afterDisplay (regWriteEvents s.cfg s.cfg.orientReg (orientValue o)) false
        (Config.mosiIdle s.epochs.length (s.trace.length + 7))) with orient := o, winArmed := false } := by
  simp only [writeOrientation, except_bind_eq_ok, acquire_lcd, regWrite_eq_ok, Except.ok.injEq]
  constructor
  · rintro ⟨_, ⟨h, rfl⟩, _, ⟨-, rfl⟩, _, h2, rfl⟩
    rw [release_afterLcd _ _ _ _ _ h] at h2
    exact ⟨h, by rw [h2]; simp [State.withLcd]⟩
  · rintro ⟨h, rfl⟩
    exact ⟨_, ⟨h, rfl⟩, _, ⟨withLcd_ready s h, rfl⟩, _, (release_afterLcd _ _ _ _ _ h).mpr rfl,
      by simp [State.withLcd]⟩

theorem setWindow_eq_ok (x0 y0 x1 y1 : Half) (s t : State) (h : setWindow x0 y0 x1 y1 s = .ok t) :
    BusFree s ∧ ∃ c m, (c = s.sclk ∨ c = false) ∧
      t = { (s.afterDisplay (windowEvents s.cfg x0 y0 x1 y1) c m) with winArmed := true } := by
  simp only [setWindow, except_bind_eq_ok, acquire_lcd, Except.ok.injEq] at h
  obtain ⟨_, ⟨hf, rfl⟩, s2, h2, s3, h3, rfl⟩ := h
  obtain ⟨c, m, hc, rfl⟩ := winWrite_eq_ok _ _ _ _ _ _ h2
  obtain rfl := (release_afterLcd _ _ _ _ _ hf).mp h3
  exact ⟨hf, c, m, hc, rfl⟩

theorem setWindow_ok (x0 y0 x1 y1 : Half) (s : State) (h : BusFree s) : ∃ t, setWindow x0 y0 x1 y1 s = .ok t := by
  obtain ⟨u, hu⟩ := winWrite_ok x0 y0 x1 y1 s.withLcd (withLcd_ready s h)
  obtain ⟨c, m, -, rfl⟩ := winWrite_eq_ok _ _ _ _ _ _ hu
  refine ⟨{ (s.afterDisplay (windowEvents s.cfg x0 y0 x1 y1) c m) with winArmed := true }, ?_⟩
  simp only [setWindow, except_bind_eq_ok, acquire_lcd]
  exact ⟨_, ⟨h, rfl⟩, _, hu, _, (release_afterLcd _ _ _ _ _ h).mpr rfl, rfl⟩

/-- The state after CONFIG's table. -/
def State.afterConfig (s : State) (c m : Bool) (n : Nat) : State :=
  { (s.afterDisplay (initTableEvents s.cfg s.orient s.cfg.initTable) c m) with
    ctl := .ready
    winArmed := true
    timer := n }

theorem release_afterTable (s t : State) (es : List Event) (c m : Bool) (n : Nat) (h : BusFree s) :
    release (s.withLcd.afterTable es c m n) = .ok t ↔ t = { (s.afterDisplay es c m) with timer := n } := by
  rw [release_eq_ok]
  obtain ⟨ho, hl, ht⟩ := h
  constructor
  · rintro ⟨-, rfl⟩
    cases s
    simp_all [State.withLcd, State.afterTable, State.afterDisplay]
  · rintro rfl
    refine ⟨⟨by simp [State.withLcd, State.afterTable], hl, ht⟩, ?_⟩
    cases s
    simp_all [State.withLcd, State.afterTable, State.afterDisplay]

theorem configureController_eq_ok (s t : State) (h : configureController s = .ok t) :
    BusFree s ∧ ∃ c m n, (n = s.timer ∨ n = 0) ∧ (c = s.sclk ∨ c = false) ∧ t = s.afterConfig c m n := by
  simp only [configureController, except_bind_eq_ok, acquire_lcd, Except.ok.injEq] at h
  obtain ⟨_, ⟨hf, rfl⟩, s2, h2, s3, h3, rfl⟩ := h
  obtain ⟨c, m, n, hn, hc, rfl⟩ := runInitTable_eq_ok _ _ _ h2
  obtain rfl := (release_afterTable _ _ _ _ _ _ hf).mp h3
  exact ⟨hf, c, m, n, hn, hc, rfl⟩

theorem configureController_ok (s : State) (h : BusFree s) (hw : WaitsLongEnough s.cfg) :
    ∃ t, configureController s = .ok t := by
  obtain ⟨u, hu⟩ := runInitTable_ok s.cfg.initTable s.withLcd (withLcd_ready s h) hw
  obtain ⟨c, m, n, -, -, rfl⟩ := runInitTable_eq_ok _ _ _ hu
  refine ⟨s.afterConfig c m n, ?_⟩
  simp only [configureController, except_bind_eq_ok, acquire_lcd]
  exact ⟨_, ⟨h, rfl⟩, _, hu, _, (release_afterTable _ _ _ _ _ _ h).mpr rfl, rfl⟩

/-! ### BEGIN, PIXEL, BYTE, END -/

theorem openStream_eq_ok (s t : State) :
    openStream s = .ok t ↔ BusFree s ∧
      t = { s with
        owner := some .lcd
        speed := .disp
        csLcdN := false
        trace := s.trace ++ beginEvents s.cfg
        sclk := false
        mosi := Config.mosiIdle s.epochs.length (s.trace.length + 6)
        stream := true
        winArmed := false } := by
  simp only [openStream, except_bind_eq_ok, acquire_lcd, lcdBracket_eq_ok, select_eq_ok, Except.ok.injEq]
  constructor
  · rintro ⟨_, ⟨h, rfl⟩, _, ⟨-, rfl⟩, _, ⟨-, rfl⟩, s4, h4, rfl⟩
    rw [xfer_lcd _ _ _ (by simp [State.withLcd, State.afterLcd])] at h4
    obtain ⟨-, rfl⟩ := h4
    refine ⟨h, ?_⟩
    obtain ⟨ho, hl, ht⟩ := h
    cases s
    simp_all [State.withLcd, State.afterLcd, State.driveCs, State.shifted, bracketEvents, beginEvents]
  · rintro ⟨h, rfl⟩
    refine ⟨_, ⟨h, rfl⟩, _, ⟨withLcd_ready s h, rfl⟩, _, ⟨⟨rfl, h.2.1, h.2.2⟩, rfl⟩, _,
      (xfer_lcd _ _ _ (by simp [State.withLcd, State.afterLcd])).mpr ⟨⟨rfl, h.2.2, rfl⟩, rfl⟩, ?_⟩
    obtain ⟨ho, hl, ht⟩ := h
    cases s
    simp_all [State.withLcd, State.afterLcd, State.driveCs, State.shifted, bracketEvents, beginEvents]

/-- A byte of the stream. -/
theorem xfer_stream (o : Byte) (s : State) (h : StreamOpen s) :
    xfer o s = .ok (s.shifted (.xfer .lcd o none)) :=
  (xfer_lcd o s _ h.2.1).mpr ⟨h.2.2, rfl⟩

@[simp] theorem shifted_streamOpen (s : State) (e : Event) : StreamOpen (s.shifted e) ↔ StreamOpen s := Iff.rfl

theorem streamPixel_stream (p : Half) (s : State) (h : StreamOpen s) :
    streamPixel p s = .ok ((s.shifted (.xfer .lcd (highByte p) none)).shifted (.xfer .lcd (lowByte p) none)) := by
  simp only [streamPixel, xfer_stream _ s h, except_ok_bind]
  exact xfer_stream _ _ ((shifted_streamOpen s _).mpr h)

theorem closeStream_eq_ok (s t : State) :
    closeStream s = .ok t ↔ (s.owner = some .lcd ∧ s.csTpN = true) ∧
      t = { s with stream := false, owner := none, csLcdN := true, trace := s.trace ++ [.cs .lcd true] } := by
  simp only [closeStream, except_bind_eq_ok, deselect_eq_ok, release_eq_ok]
  constructor
  · rintro ⟨_, ⟨ho, rfl⟩, ⟨-, -, ht⟩, rfl⟩
    exact ⟨⟨ho, by simpa using ht⟩, rfl⟩
  · rintro ⟨⟨ho, ht⟩, rfl⟩
    exact ⟨_, ⟨ho, rfl⟩, ⟨by simp [ho], by simp, by simpa using ht⟩, rfl⟩

/-! ### RESET -/

/-- The state after RESET's effect, `es` being its wire events (rule R190). -/
def State.afterReset (s : State) (es : List Event) : State :=
  { s with
    stream := false
    owner := none
    csLcdN := true
    rstN := true
    timer := 0
    ctl := .configuring
    orient := initOrientCode s.cfg
    winArmed := false
    trace := s.trace ++ es }

/-- RESET's effect from a state in which it holds the bus. -/
theorem resetController_from (s u t : State) (h : takeBusForReset s = .ok u) :
    resetController s = .ok t ↔ (u.owner = some .lcd ∧ u.csTpN = true ∧ WaitsLongEnough u.cfg) ∧
      t = { u with
        owner := none
        csLcdN := true
        rstN := true
        timer := 0
        ctl := .configuring
        orient := initOrientCode u.cfg
        winArmed := false
        trace := u.trace ++ resetPulseEvents } := by
  simp only [resetController, h, except_ok_bind, except_bind_eq_ok, deselect_eq_ok, wait_eq_ok, release_eq_ok,
    resetLine_eq, Except.ok.injEq]
  constructor
  · rintro ⟨_, ⟨ho, rfl⟩, _, ⟨hw, rfl⟩, _, ⟨-, rfl⟩, _, ⟨⟨-, -, ht⟩, rfl⟩, rfl⟩
    refine ⟨⟨ho, by simpa using ht, by simpa [WaitsLongEnough] using hw⟩, ?_⟩
    simp [State.driveCs, resetPulseEvents]
  · rintro ⟨⟨ho, ht, hw⟩, rfl⟩
    refine ⟨_, ⟨ho, rfl⟩, _, ⟨by simpa [WaitsLongEnough] using hw, rfl⟩, _,
      ⟨by simpa [WaitsLongEnough] using hw, rfl⟩, _, ⟨⟨by simp [ho], by simp, by simpa using ht⟩, rfl⟩, ?_⟩
    simp [State.driveCs, resetPulseEvents]

/-- RESET with no stream open. -/
theorem resetController_idle (s t : State) (hs : s.stream = false) :
    resetController s = .ok t ↔ (BusFree s ∧ WaitsLongEnough s.cfg) ∧
      t = { (s.afterReset (.speed .disp :: resetPulseEvents)) with speed := .disp } := by
  have hb : takeBusForReset s = acquire .lcd s := by simp [takeBusForReset, hs]
  constructor
  · intro h
    cases ha : acquire .lcd s with
    | error e => simp [resetController, hb, ha, bind, Except.bind] at h
    | ok u =>
      obtain ⟨hf, rfl⟩ := (acquire_lcd s u).mp ha
      obtain ⟨⟨-, -, hw⟩, rfl⟩ := (resetController_from s _ t (hb.trans ha)).mp h
      refine ⟨⟨hf, hw⟩, ?_⟩
      cases s
      simp_all [State.withLcd, State.afterReset, resetPulseEvents]
  · rintro ⟨⟨hf, hw⟩, rfl⟩
    rw [resetController_from s s.withLcd _ (hb.trans ((acquire_lcd s _).mpr ⟨hf, rfl⟩))]
    refine ⟨⟨rfl, hf.2.2, hw⟩, ?_⟩
    cases s
    simp_all [State.withLcd, State.afterReset, resetPulseEvents]

/-- RESET with a stream open: the stream's acquisition becomes RESET's. -/
theorem resetController_stream (s t : State) (hs : s.stream = true) :
    resetController s = .ok t ↔ (s.owner = some .lcd ∧ s.csTpN = true ∧ WaitsLongEnough s.cfg) ∧
      t = s.afterReset resetPulseEvents := by
  rw [resetController_from s { s with stream := false } t (by simp [takeBusForReset, hs])]
  exact Iff.rfl

/-! ### TPOLL -/

/-- The state while the touch controller owns the bus it has just acquired. -/
def State.withTp (s : State) : State :=
  { s with
    owner := some .tp
    speed := .touch
    trace := s.trace ++ [.speed .touch] }

theorem acquire_tp (s t : State) : acquire .tp s = .ok t ↔ BusFree s ∧ t = s.withTp := acquire_ok_iff .tp s t

theorem misoByte_withTp (s : State) (n : Nat) : misoByte s.withTp n = misoByte s n := rfl

/-- The probe (rule R240). -/
theorem probePressure_eq_ok (s u : State) (z1 z2 : Byte) :
    probePressure s = .ok (z1, z2, u) ↔ BusFree s ∧ z1 = pollZ1 s ∧ z2 = pollZ2 s ∧
      ∃ m, m = Config.mosiIdle s.epochs.length (s.trace.length + 7) ∧
      u = s.withTp.afterTp (adc8Events s.cfg .z1 (misoByte s 0) (pollZ1 s) ++
        adc8Events s.cfg .z2 (misoByte s 2) (pollZ2 s)) 4 m := by
  simp only [probePressure, except_bind_eq_ok, acquire_tp, Prod.exists, adcRead8_eq_ok, Except.ok.injEq,
    Prod.mk.injEq]
  constructor
  · rintro ⟨_, ⟨h, rfl⟩, z1', _, ⟨-, rfl, rfl⟩, z2', _, ⟨-, rfl, rfl⟩, rfl, rfl, rfl⟩
    refine ⟨h, rfl, by simp only [misoByte_afterTp]; rfl, _, rfl, ?_⟩
    simp only [afterTp_afterTp, misoByte_afterTp, afterTp_cfg]
    simp [State.afterTp, State.withTp, adc8Events, pollZ1, pollZ2, misoByte]
  · rintro ⟨h, rfl, rfl, m, rfl, rfl⟩
    refine ⟨_, ⟨h, rfl⟩, _, _, ⟨⟨rfl, h.2.1, h.2.2, rfl⟩, rfl, rfl⟩, _, _,
      ⟨⟨rfl, h.2.1, h.2.2, rfl⟩, rfl, rfl⟩, rfl, by simp only [misoByte_afterTp]; rfl, ?_⟩
    simp only [afterTp_afterTp, misoByte_afterTp, afterTp_cfg]
    simp [State.afterTp, State.withTp, adc8Events, pollZ1, pollZ2, misoByte]

/-- The state after a poll's wire activity: `es` after the SPEED event, `k` MISO bytes taken. -/
def State.afterPoll (s : State) (es : List Event) (k : Nat) (m : Bool) : State :=
  { s with
    speed := .touch
    trace := s.trace ++ es
    miso := s.miso.drop k
    misoDraws := s.misoDraws + (k - s.miso.length)
    sclk := false
    mosi := m }

theorem release_afterTp (s t : State) (es : List Event) (k : Nat) (m : Bool) (h : BusFree s) :
    release (s.withTp.afterTp es k m) = .ok t ↔ t = s.afterPoll (.speed .touch :: es) k m := by
  rw [release_eq_ok]
  obtain ⟨ho, hl, ht⟩ := h
  constructor
  · rintro ⟨-, rfl⟩
    cases s
    simp_all [State.withTp, State.afterTp, State.afterPoll]
  · rintro rfl
    refine ⟨⟨by simp [State.withTp, State.afterTp], hl, ht⟩, ?_⟩
    cases s
    simp_all [State.withTp, State.afterTp, State.afterPoll]

/-- The state after a poll without contact. -/
def State.afterNoContact (s : State) (m : Bool) : State :=
  storeTouch false 0 0 (pollZ1 s) (pollZ2 s) 0 0 (s.afterPoll (probeEvents s) 4 m)

/-- The state after a poll with contact. -/
def State.afterContact (s : State) (m : Bool) : State :=
  storeTouch true (transformX s.cfg s.orient (pollXraw s) (pollYraw s))
    (transformY s.cfg s.orient (pollXraw s) (pollYraw s)) (pollZ1 s) (pollZ2 s) (pollXraw s) (pollYraw s)
    (s.afterPoll (probeEvents s ++ axisEvents s) 16 m)

/-- TPOLL's effect (rules R226, R240). -/
theorem pollTouch_eq_ok (s t : State) :
    pollTouch s = .ok t ↔ BusFree s ∧
      ∃ m n, m = Config.mosiIdle s.epochs.length (s.trace.length + 7) ∧
        n = Config.mosiIdle s.epochs.length (s.trace.length + 27) ∧
        t = if noContact s.cfg (pollPressure s) then s.afterNoContact m else s.afterContact n := by
  have hno (h : BusFree s) (m : Bool) (z1 z2 : Byte) (t : State) :
      pollNoContact z1 z2 (s.withTp.afterTp (adc8Events s.cfg .z1 (misoByte s 0) (pollZ1 s) ++
        adc8Events s.cfg .z2 (misoByte s 2) (pollZ2 s)) 4 m) = .ok t ↔
      t = storeTouch false 0 0 z1 z2 0 0 (s.afterPoll (probeEvents s) 4 m) := by
    simp only [pollNoContact, except_bind_eq_ok, release_afterTp s _ _ _ _ h, Except.ok.injEq]
    exact ⟨by rintro ⟨_, rfl, rfl⟩; rfl, by rintro rfl; exact ⟨_, rfl, rfl⟩⟩
  have hyes (h : BusFree s) (m : Bool) (z1 z2 : Byte) (t : State) :
      pollContact z1 z2 (s.withTp.afterTp (adc8Events s.cfg .z1 (misoByte s 0) (pollZ1 s) ++
        adc8Events s.cfg .z2 (misoByte s 2) (pollZ2 s)) 4 m) = .ok t ↔
      t = storeTouch true (transformX s.cfg s.orient (pollXraw s) (pollYraw s))
        (transformY s.cfg s.orient (pollXraw s) (pollYraw s)) z1 z2 (pollXraw s) (pollYraw s)
        (s.afterPoll (probeEvents s ++ axisEvents s) 16
          (Config.mosiIdle s.epochs.length (s.trace.length + 27))) := by
    have hx : pollXraw s = rawSample (misoByte s.withTp 8) (misoByte s.withTp 9) := rfl
    have hy : pollYraw s = rawSample (misoByte s.withTp 14) (misoByte s.withTp 15) := rfl
    have hcfg : s.withTp.cfg = s.cfg := rfl
    have hlen : (s.withTp.afterTp (adc8Events s.cfg .z1 (misoByte s 0) (pollZ1 s) ++
        adc8Events s.cfg .z2 (misoByte s 2) (pollZ2 s)) 4 m).trace.length = s.trace.length + 9 := by
      simp [State.afterTp, State.withTp, adc8Events]
    simp only [pollContact, except_bind_eq_ok, Prod.exists, adcReadTwice_eq_ok, Except.ok.injEq]
    constructor
    · rintro ⟨_, _, ⟨-, rfl, rfl⟩, _, _, ⟨-, rfl, rfl⟩, u, hu, rfl⟩
      simp only [afterTp_afterTp] at hu
      obtain rfl := (release_afterTp s _ _ _ _ h).mp hu
      simp only [misoByte_afterTp, afterTp_cfg, hcfg, hx, hy]
      simp [State.afterPoll, storeTouch, State.afterTp, State.withTp, adc8Events, adc12Events, probeEvents,
        axisEvents, misoByte]
    · rintro rfl
      refine ⟨_, _, ⟨⟨rfl, h.2.1, h.2.2, rfl⟩, rfl, rfl⟩, _, _, ⟨⟨rfl, h.2.1, h.2.2, rfl⟩, rfl, rfl⟩, ?_⟩
      simp only [afterTp_afterTp]
      refine ⟨_, (release_afterTp s _ _ _ _ h).mpr rfl, ?_⟩
      simp only [misoByte_afterTp, afterTp_cfg, hcfg, hx, hy]
      simp [State.afterPoll, storeTouch, State.afterTp, State.withTp, adc8Events, adc12Events, probeEvents,
        axisEvents, misoByte]
  simp only [pollTouch, except_bind_eq_ok, Prod.exists, probePressure_eq_ok]
  constructor
  · rintro ⟨_, _, u, ⟨h, rfl, rfl, m, rfl, rfl⟩, h2⟩
    refine ⟨h, _, _, rfl, rfl, ?_⟩
    rw [chooseBranch_eq] at h2
    change (if noContact s.cfg (pollPressure s) = true then _ else _) = _ at h2
    split at h2 <;> rename_i hc
    · rw [if_pos hc]; exact (hno h _ _ _ _).mp h2
    · rw [if_neg hc]; exact (hyes h _ _ _ _).mp h2
  · rintro ⟨h, m, n, rfl, rfl, rfl⟩
    refine ⟨_, _, _, ⟨h, rfl, rfl, _, rfl, rfl⟩, ?_⟩
    rw [chooseBranch_eq]
    change (if noContact s.cfg (pollPressure s) = true then _ else _) = _
    split <;> rename_i hc
    · exact (hno h _ _ _ _).mpr rfl
    · exact (hyes h _ _ _ _).mpr rfl

end Sys2Proof.Machine
end

