-- ==== Sys2Proof/Laws/Decode.lean ====
section
/-! SUPPORT. The fields of a word the encoder writes, and a word put together again from its fields (rules R90 to R97). -/

namespace Sys2Proof

/-! ### Slices of two parts put together -/

theorem slice_high {n m k : Nat} (x : BitVec n) (y : BitVec m) (h : k = n) :
    (x ++ y).extractLsb' m k = x.cast h.symm := by
  subst h
  apply BitVec.eq_of_getLsbD_eq
  intro i hi
  rw [BitVec.getLsbD_extractLsb', BitVec.getLsbD_append]
  simp [hi]

theorem slice_in_low {n m : Nat} (x : BitVec n) (y : BitVec m) (a k : Nat) (h : a + k ≤ m) :
    (x ++ y).extractLsb' a k = y.extractLsb' a k := by
  apply BitVec.eq_of_getLsbD_eq
  intro i hi
  rw [BitVec.getLsbD_extractLsb', BitVec.getLsbD_extractLsb', BitVec.getLsbD_append, if_pos (by omega)]

theorem slice_in_high {n m : Nat} (x : BitVec n) (y : BitVec m) (a k : Nat) :
    (x ++ y).extractLsb' (m + a) k = x.extractLsb' a k := by
  apply BitVec.eq_of_getLsbD_eq
  intro i hi
  rw [BitVec.getLsbD_extractLsb', BitVec.getLsbD_extractLsb', BitVec.getLsbD_append, if_neg (by omega)]
  congr 2
  omega

theorem slice_all {n : Nat} (x : BitVec n) : x.extractLsb' 0 n = x := by
  apply BitVec.eq_of_getLsbD_eq
  intro i hi
  simp [hi]

/-- A word is its high slice and its low slice. -/
theorem slices_together {n m : Nat} (w : BitVec (n + m)) : w.extractLsb' m n ++ w.extractLsb' 0 m = w := by
  apply BitVec.eq_of_getLsbD_eq
  intro i hi
  rw [BitVec.getLsbD_append]
  split <;> rename_i h
  · simp [h]
  · have h2 : i - m < n := by omega
    have h3 : m + (i - m) = i := by omega
    simp [h2, h3]

/-- A slice is its own high and low slices. -/
theorem slice_split {w : Nat} (v : BitVec w) (a n m : Nat) :
    v.extractLsb' (a + m) n ++ v.extractLsb' a m = v.extractLsb' a (n + m) := by
  apply BitVec.eq_of_getLsbD_eq
  intro i hi
  rw [BitVec.getLsbD_append]
  split <;> rename_i h
  · simp [h, hi]
  · have h2 : i - m < n := by omega
    have h3 : a + m + (i - m) = a + i := by omega
    simp [h2, h3, hi]

/-- A word under a mask of its bits from `k` up equals `v`, whose bits below `k` are 0, exactly if the slices from `k`
up are equal. -/
theorem masked_eq_iff (w m v : Word) (k n : Nat) (hk : k + n = 32)
    (hm : ∀ i < 32, m.getLsbD i = decide (k ≤ i)) (hv : ∀ i < k, v.getLsbD i = false) :
    w &&& m = v ↔ w.extractLsb' k n = v.extractLsb' k n := by
  constructor
  · rintro rfl
    apply BitVec.eq_of_getLsbD_eq
    intro i hi
    simp [hi, hm (k + i) (by omega)]
  · intro h
    apply BitVec.eq_of_getLsbD_eq
    intro i hi
    rw [BitVec.getLsbD_and, hm i hi]
    by_cases hki : k ≤ i
    · have hbit := congrArg (fun x => x.getLsbD (i - k)) h
      have h1 : i - k < n := by omega
      have h2 : k + (i - k) = i := by omega
      simp only [BitVec.getLsbD_extractLsb', h1, h2, decide_true, Bool.true_and] at hbit
      simp [hki, hbit]
    · simp [hki, hv i (by omega)]

/-! ### Format N -/

@[simp] theorem fieldOp_formatN (op : Byte) : fieldOp (formatN op) = op :=
  (slice_in_high op (0 : BitVec 24) 0 8).trans (slice_all op)
@[simp] theorem fieldReservedN_formatN (op : Byte) : fieldReservedN (formatN op) = 0 :=
  (slice_in_low op (0 : BitVec 24) 0 24 (by omega)).trans (slice_all _)

theorem eq_formatN (w : Word) (h : fieldReservedN w = 0) : w = formatN (fieldOp w) := by
  have := slices_together (n := 8) (m := 24) w
  rw [formatN, ← h]; exact this.symm

/-! ### Formats O and P -/

@[simp] theorem fieldOp_formatHalf (op : Byte) (v : Half) : fieldOp (formatHalf op v) = op :=
  (slice_in_high (op ++ (0 : Byte)) v 8 8).trans ((slice_in_high op (0 : Byte) 0 8).trans (slice_all op))
@[simp] theorem fieldReservedHigh_formatHalf (op : Byte) (v : Half) : fieldReservedHigh (formatHalf op v) = 0 :=
  (slice_in_high (op ++ (0 : Byte)) v 0 8).trans ((slice_in_low op (0 : Byte) 0 8 (by omega)).trans (slice_all _))
@[simp] theorem fieldLow_formatHalf (op : Byte) (v : Half) : fieldLow (formatHalf op v) = v :=
  (slice_in_low (op ++ (0 : Byte)) v 0 16 (by omega)).trans (slice_all v)

theorem eq_formatHalf (w : Word) (h : fieldReservedHigh w = 0) : w = formatHalf (fieldOp w) (fieldLow w) := by
  have h1 := slices_together (n := 16) (m := 16) w
  have h2 := slice_split w 16 8 8
  rw [formatHalf, ← h]
  exact (((congrArg (fun u => u ++ w.extractLsb' 0 16) h2).trans h1)).symm

/-! ### Format R -/

@[simp] theorem fieldOp_formatR (op a v : Byte) : fieldOp (formatR op a v) = op :=
  (slice_in_high (op ++ (0 : Byte) ++ a) v 16 8).trans
    ((slice_in_high (op ++ (0 : Byte)) a 8 8).trans ((slice_in_high op (0 : Byte) 0 8).trans (slice_all op)))
@[simp] theorem fieldReservedHigh_formatR (op a v : Byte) : fieldReservedHigh (formatR op a v) = 0 :=
  (slice_in_high (op ++ (0 : Byte) ++ a) v 8 8).trans
    ((slice_in_high (op ++ (0 : Byte)) a 0 8).trans
      ((slice_in_low op (0 : Byte) 0 8 (by omega)).trans (slice_all _)))
@[simp] theorem fieldAddr_formatR (op a v : Byte) : fieldAddr (formatR op a v) = a :=
  (slice_in_high (op ++ (0 : Byte) ++ a) v 0 8).trans
    ((slice_in_low (op ++ (0 : Byte)) a 0 8 (by omega)).trans (slice_all a))
@[simp] theorem fieldByte_formatR (op a v : Byte) : fieldByte (formatR op a v) = v :=
  (slice_in_low (op ++ (0 : Byte) ++ a) v 0 8 (by omega)).trans (slice_all v)

theorem eq_formatR (w : Word) (h : fieldReservedHigh w = 0) :
    w = formatR (fieldOp w) (fieldAddr w) (fieldByte w) := by
  have h1 := slices_together (n := 24) (m := 8) w
  have h2 := slice_split w 8 16 8
  have h3 := slice_split w 16 8 8
  rw [formatR, ← h]
  exact ((congrArg (fun u => u ++ w.extractLsb' 8 8 ++ w.extractLsb' 0 8) h3).trans
    ((congrArg (fun u => u ++ w.extractLsb' 0 8) h2).trans h1)).symm

/-! ### Format B -/

@[simp] theorem fieldOp_formatB (op b : Byte) : fieldOp (formatB op b) = op :=
  (slice_in_high (op ++ (0 : Half)) b 16 8).trans ((slice_in_high op (0 : Half) 0 8).trans (slice_all op))
@[simp] theorem fieldReservedB_formatB (op b : Byte) : fieldReservedB (formatB op b) = 0 :=
  (slice_in_high (op ++ (0 : Half)) b 0 16).trans ((slice_in_low op (0 : Half) 0 16 (by omega)).trans (slice_all _))
@[simp] theorem fieldByte_formatB (op b : Byte) : fieldByte (formatB op b) = b :=
  (slice_in_low (op ++ (0 : Half)) b 0 8 (by omega)).trans (slice_all b)

theorem eq_formatB (w : Word) (h : fieldReservedB w = 0) : w = formatB (fieldOp w) (fieldByte w) := by
  have h1 := slices_together (n := 24) (m := 8) w
  have h2 := slice_split w 8 8 16
  rw [formatB, ← h]
  exact ((congrArg (fun u => u ++ w.extractLsb' 0 8) h2).trans h1).symm

/-! ### Operand words of format W -/

@[simp] theorem fieldHigh_windowWord (x y : Half) : fieldHigh (windowWord x y) = x :=
  (slice_in_high x y 0 16).trans (slice_all x)
@[simp] theorem fieldLow_windowWord (x y : Half) : fieldLow (windowWord x y) = y :=
  (slice_in_low x y 0 16 (by omega)).trans (slice_all y)

theorem eq_windowWord (w : Word) : windowWord (fieldHigh w) (fieldLow w) = w :=
  slices_together (n := 16) (m := 16) w

/-- SETWIN's word0 is format N with opcode 0x05. -/
theorem formatN_setwin : formatN 0x05 = setwinWord0 := by decide

/-- A word whose opcode is not 0x05 is not SETWIN's word0. -/
theorem ne_setwin_of_op (w : Word) (h : fieldOp w ≠ 0x05) : w ≠ setwinWord0 := by
  rintro rfl
  exact h (by decide)

end Sys2Proof
end

