-- ==== Sys2Proof/Laws/Exec.lean ====
section
/-! SUPPORT. What a command can do, said once for all of them: it completes with an error and only the completion step,
or with OK after its effect (rules R261, R262). -/

namespace Sys2Proof.Machine

/-- The effect of a command whose guards have passed, before the completion step. -/
def Effect (i : Instr) (s u : State) : Prop :=
  match i with
  | .reset => WaitsLongEnough s.cfg ∧
      ((s.stream = false ∧ BusFree s ∧
          u = { (s.afterReset (.speed .disp :: resetPulseEvents)) with speed := .disp }) ∨
        (s.stream = true ∧ s.owner = some .lcd ∧ s.csTpN = true ∧ u = s.afterReset resetPulseEvents))
  | .config => s.stream = false ∧ s.ctl = .configuring ∧ BusFree s ∧
      ∃ c m n, (n = s.timer ∨ n = 0) ∧ (c = s.sclk ∨ c = false) ∧ u = s.afterConfig c m n
  | .setori deg => s.stream = false ∧ s.ctl = .ready ∧ BusFree s ∧ ∃ o, orientCode? deg = some o ∧
      u = { (s.afterDisplay (regWriteEvents s.cfg s.cfg.orientReg (orientValue o)) false
        (Config.mosiIdle s.epochs.length (s.trace.length + 7))) with orient := o, winArmed := false }
  | .wrreg a v => s.stream = false ∧ (s.ctl = .configuring ∨ s.ctl = .ready) ∧ BusFree s ∧
      u = s.afterDisplay (regWriteEvents s.cfg a v) false (Config.mosiIdle s.epochs.length (s.trace.length + 7))
  | .setwin x0 y0 x1 y1 => s.stream = false ∧ s.ctl = .ready ∧ BusFree s ∧
      ∃ c m, (c = s.sclk ∨ c = false) ∧
        u = { (s.afterDisplay (windowEvents s.cfg x0 y0 x1 y1) c m) with winArmed := true }
  | .beginStream => s.stream = false ∧ s.ctl = .ready ∧ s.winArmed = true ∧ BusFree s ∧
      u = { s with
        owner := some .lcd
        speed := .disp
        csLcdN := false
        trace := s.trace ++ beginEvents s.cfg
        sclk := false
        mosi := Config.mosiIdle s.epochs.length (s.trace.length + 6)
        stream := true
        winArmed := false }
  | .pixel p => s.stream = true ∧ ∃ v, xfer (highByte p) s = .ok v ∧ xfer (lowByte p) v = .ok u
  | .byte b => s.stream = true ∧ xfer b s = .ok u
  | .endStream => s.stream = true ∧ s.owner = some .lcd ∧ s.csTpN = true ∧
      u = { s with stream := false, owner := none, csLcdN := true, trace := s.trace ++ [.cs .lcd true] }
  | .tpoll => s.stream = false ∧ BusFree s ∧ ∃ m,
      u = if noContact s.cfg (pollPressure s) then s.afterNoContact m else s.afterContact m

/-- A transfer, whoever owns the bus: one event more, and at most one MISO byte less. -/
theorem xfer_cases (o : Byte) (s t : State) (h : xfer o s = .ok t) :
    ∃ e, t = s.shifted e ∨ t = s.dropMiso.shifted e := by
  cases ho : s.owner with
  | none => simp [xfer_no_owner _ _ ho] at h
  | some p =>
    cases p with
    | lcd => exact ⟨_, .inl ((xfer_lcd o s t ho).mp h).2⟩
    | tp => exact ⟨_, .inr ((xfer_tp o s t ho).mp h).2⟩

/-- A command that answers a next state either raised an error, or did its effect and completed OK. -/
theorem exec_cases (i : Instr) (s t : State) (h : exec i s = .next t) :
    (∃ code, code ≠ .ok ∧ code ≠ .busTransactionFailure ∧ t = complete code s) ∨
      ∃ u, Effect i s u ∧ t = complete .ok u := by
  have hraise {code : Result} (hc : code ≠ .ok) (hb : code ≠ .busTransactionFailure) (hr : raise code s = .next t) :
      (∃ code, code ≠ .ok ∧ code ≠ .busTransactionFailure ∧ t = complete code s) ∨
        ∃ u, Effect i s u ∧ t = complete .ok u := .inl ⟨code, hc, hb, by simpa [raise, eq_comm] using hr⟩
  cases i with
  | reset =>
    obtain ⟨u, hu, rfl⟩ := (finish_eq_next _ _).mp h
    refine .inr ⟨u, ?_, rfl⟩
    cases hs : s.stream with
    | false =>
      obtain ⟨⟨hf, hw⟩, rfl⟩ := (resetController_idle s u hs).mp hu
      exact ⟨hw, .inl ⟨hs, hf, rfl⟩⟩
    | true =>
      obtain ⟨⟨ho, ht, hw⟩, rfl⟩ := (resetController_stream s u hs).mp hu
      exact ⟨hw, .inr ⟨hs, ho, ht, rfl⟩⟩
  | config =>
    simp only [exec, execConfig] at h
    split at h
    · exact hraise (by decide) (by decide) h
    · split at h
      · exact hraise (by decide) (by decide) h
      · obtain ⟨u, hu, rfl⟩ := (finish_eq_next _ _).mp h
        exact .inr ⟨u, ⟨by simp_all, by simp_all, configureController_eq_ok s u hu⟩, rfl⟩
  | setori deg =>
    simp only [exec, execSetori] at h
    split at h
    · exact hraise (by decide) (by decide) h
    · split at h
      · exact hraise (by decide) (by decide) h
      · split at h
        · exact hraise (by decide) (by decide) h
        · rename_i o ho
          obtain ⟨u, hu, rfl⟩ := (finish_eq_next _ _).mp h
          obtain ⟨hf, rfl⟩ := (writeOrientation_eq_ok o s u).mp hu
          exact .inr ⟨_, ⟨by simp_all, by simp_all, hf, o, ho, rfl⟩, rfl⟩
  | wrreg a v =>
    simp only [exec, execWrreg] at h
    split at h
    · exact hraise (by decide) (by decide) h
    · split at h
      · exact hraise (by decide) (by decide) h
      · rename_i hctl
        obtain ⟨u, hu, rfl⟩ := (finish_eq_next _ _).mp h
        obtain ⟨hf, rfl⟩ := (writeOneRegister_eq_ok a v s u).mp hu
        exact .inr ⟨_, ⟨by simp_all, by rw [← not_not (a := _ ∨ _), not_or]; exact hctl, hf, rfl⟩, rfl⟩
  | setwin x0 y0 x1 y1 =>
    simp only [exec, execSetwin] at h
    split at h
    · exact hraise (by decide) (by decide) h
    · split at h
      · exact hraise (by decide) (by decide) h
      · obtain ⟨u, hu, rfl⟩ := (finish_eq_next _ _).mp h
        exact .inr ⟨u, ⟨by simp_all, by simp_all, setWindow_eq_ok x0 y0 x1 y1 s u hu⟩, rfl⟩
  | beginStream =>
    simp only [exec, execBegin] at h
    split at h
    · exact hraise (by decide) (by decide) h
    · split at h
      · exact hraise (by decide) (by decide) h
      · split at h
        · exact hraise (by decide) (by decide) h
        · obtain ⟨u, hu, rfl⟩ := (finish_eq_next _ _).mp h
          obtain ⟨hf, rfl⟩ := (openStream_eq_ok s u).mp hu
          exact .inr ⟨_, ⟨by simp_all, by simp_all, by simp_all, hf, rfl⟩, rfl⟩
  | pixel p =>
    simp only [exec, execPixel] at h
    split at h
    · exact hraise (by decide) (by decide) h
    · obtain ⟨u, hu, rfl⟩ := (finish_eq_next _ _).mp h
      simp only [streamPixel, except_bind_eq_ok] at hu
      exact .inr ⟨u, ⟨by simp_all, hu⟩, rfl⟩
  | byte b =>
    simp only [exec, execByte] at h
    split at h
    · exact hraise (by decide) (by decide) h
    · obtain ⟨u, hu, rfl⟩ := (finish_eq_next _ _).mp h
      exact .inr ⟨u, ⟨by simp_all, hu⟩, rfl⟩
  | endStream =>
    simp only [exec, execEnd] at h
    split at h
    · exact hraise (by decide) (by decide) h
    · obtain ⟨u, hu, rfl⟩ := (finish_eq_next _ _).mp h
      obtain ⟨⟨ho, ht⟩, rfl⟩ := (closeStream_eq_ok s u).mp hu
      exact .inr ⟨_, ⟨by simp_all, ho, ht, rfl⟩, rfl⟩
  | tpoll =>
    simp only [exec, execTpoll] at h
    split at h
    · exact hraise (by decide) (by decide) h
    · obtain ⟨u, hu, rfl⟩ := (finish_eq_next _ _).mp h
      obtain ⟨hf, m, n, -, -, hu⟩ := (pollTouch_eq_ok s u).mp hu
      refine .inr ⟨u, ⟨by simp_all, hf, ?_⟩, rfl⟩
      cases hc : noContact s.cfg (pollPressure s) with
      | true => exact ⟨m, by simpa [hc] using hu⟩
      | false => exact ⟨n, by simpa [hc] using hu⟩

end Sys2Proof.Machine
end

