-- ==== Sys2Proof/Laws/PerInstr.lean ====
section
/-! SUPPORT. Statements about the syntax of every command, made command by command: a command's encoding stands in its
row of the opcode map and has the row's number of words (rule R98). -/

namespace Sys2Proof

theorem formatHalf_masked (op : Byte) (v : Half) (match32 : Word) (hv : ∀ i < 16, match32.getLsbD i = false)
    (hm : op ++ (0 : Byte) = match32.extractLsb' 16 16) : formatHalf op v &&& 0xFFFF0000 = match32 := by
  rw [masked_eq_iff _ _ _ 16 16 rfl (by decide) hv]
  exact (slice_in_high (op ++ (0 : Byte)) v 0 16).trans ((slice_all _).trans hm)

theorem formatR_masked (op a v : Byte) (match32 : Word) (hv : ∀ i < 16, match32.getLsbD i = false)
    (hm : op ++ (0 : Byte) = match32.extractLsb' 16 16) : formatR op a v &&& 0xFFFF0000 = match32 := by
  rw [masked_eq_iff _ _ _ 16 16 rfl (by decide) hv]
  exact (slice_in_high (op ++ (0 : Byte) ++ a) v 8 16).trans
    ((slice_in_high (op ++ (0 : Byte)) a 0 16).trans ((slice_all _).trans hm))

theorem formatB_masked (op b : Byte) (match32 : Word) (hv : ∀ i < 8, match32.getLsbD i = false)
    (hm : op ++ (0 : Half) = match32.extractLsb' 8 24) : formatB op b &&& 0xFFFFFF00 = match32 := by
  rw [masked_eq_iff _ _ _ 8 24 rfl (by decide) hv]
  exact (slice_in_high (op ++ (0 : Half)) b 0 24).trans ((slice_all _).trans hm)

namespace Laws.EncodesRow

/-- Word0 of the command's encoding matches the row of its mnemonic under the row's mask, and the encoding has the
row's number of words. -/
def Statement (i : Instr) : Prop :=
  ∃ row ∈ opcodeMap, row.mnemonic = mnemonicOf i ∧ (encode i).length = row.words ∧
    ∀ w0 ∈ (encode i).head?, row.covers w0 = true

theorem of_row (i : Instr) (row : OpcodeRow) (w0 : Word) (rest : List Word) (hr : row ∈ opcodeMap)
    (hn : row.mnemonic = mnemonicOf i) (he : encode i = w0 :: rest) (hl : rest.length + 1 = row.words)
    (hc : w0 &&& row.mask = row.matchBits) : Statement i := by
  refine ⟨row, hr, hn, by rw [he]; exact hl, ?_⟩
  rw [he]
  intro w hw
  obtain rfl : w0 = w := by simpa using hw
  simpa [OpcodeRow.covers] using hc

theorem reset : Statement .reset :=
  of_row _ ⟨"RESET", 1, 0x01000000, 0xFFFFFFFF⟩ _ [] (by decide) rfl rfl rfl (by decide)
theorem config : Statement .config :=
  of_row _ ⟨"CONFIG", 1, 0x02000000, 0xFFFFFFFF⟩ _ [] (by decide) rfl rfl rfl (by decide)
theorem setori (deg : Half) : Statement (.setori deg) :=
  of_row _ ⟨"SETORI", 1, 0x03000000, 0xFFFF0000⟩ _ [] (by decide) rfl rfl rfl
    (formatHalf_masked 0x03 deg _ (by decide) (by decide))
theorem wrreg (addr val : Byte) : Statement (.wrreg addr val) :=
  of_row _ ⟨"WRREG", 1, 0x04000000, 0xFFFF0000⟩ _ [] (by decide) rfl rfl rfl
    (formatR_masked 0x04 addr val _ (by decide) (by decide))
theorem setwin (x0 y0 x1 y1 : Half) : Statement (.setwin x0 y0 x1 y1) :=
  of_row _ ⟨"SETWIN", 3, 0x05000000, 0xFFFFFFFF⟩ _ [windowWord x0 y0, windowWord x1 y1] (by decide) rfl rfl rfl
    (by decide)
theorem beginStream : Statement .beginStream :=
  of_row _ ⟨"BEGIN", 1, 0x06000000, 0xFFFFFFFF⟩ _ [] (by decide) rfl rfl rfl (by decide)
theorem pixel (p : Half) : Statement (.pixel p) :=
  of_row _ ⟨"PIXEL", 1, 0x07000000, 0xFFFF0000⟩ _ [] (by decide) rfl rfl rfl
    (formatHalf_masked 0x07 p _ (by decide) (by decide))
theorem byte (b : Byte) : Statement (.byte b) :=
  of_row _ ⟨"BYTE", 1, 0x08000000, 0xFFFFFF00⟩ _ [] (by decide) rfl rfl rfl
    (formatB_masked 0x08 b _ (by decide) (by decide))
theorem endStream : Statement .endStream :=
  of_row _ ⟨"END", 1, 0x09000000, 0xFFFFFFFF⟩ _ [] (by decide) rfl rfl rfl (by decide)
theorem tpoll : Statement .tpoll :=
  of_row _ ⟨"TPOLL", 1, 0x0A000000, 0xFFFFFFFF⟩ _ [] (by decide) rfl rfl rfl (by decide)

end Laws.EncodesRow

end Sys2Proof
end

