-- ==== Sys2Proof/Laws/Port.lean ====
section
/-! SUPPORT. No command looks at the host's side of the block (rules R78, R103): with other host operations, other words
in the collector and another BUSY it does the same. -/

namespace Sys2Proof.Machine

/-- `s` with another host side: host operations `h`, collected words `b`, BUSY `x`. -/
def State.withPort (h : List HostOp) (b : List Word) (x : Bool) (s : State) : State :=
  { s with hostOps := h, cbuf := b, busy := x }

section
variable (h : List HostOp) (b : List Word) (x : Bool)

@[simp] theorem withPort_cfg (s : State) : (s.withPort h b x).cfg = s.cfg := rfl
@[simp] theorem withPort_ctl (s : State) : (s.withPort h b x).ctl = s.ctl := rfl
@[simp] theorem withPort_stream (s : State) : (s.withPort h b x).stream = s.stream := rfl
@[simp] theorem withPort_orient (s : State) : (s.withPort h b x).orient = s.orient := rfl
@[simp] theorem withPort_winArmed (s : State) : (s.withPort h b x).winArmed = s.winArmed := rfl
@[simp] theorem withPort_owner (s : State) : (s.withPort h b x).owner = s.owner := rfl
@[simp] theorem withPort_hostOps (s : State) : (s.withPort h b x).hostOps = h := rfl
@[simp] theorem withPort_cbuf (s : State) : (s.withPort h b x).cbuf = b := rfl
@[simp] theorem withPort_busy (s : State) : (s.withPort h b x).busy = x := rfl
@[simp] theorem withPort_pend (s : State) : (s.withPort h b x).pend = s.pend := rfl
end

/-- An activity of the block that the host's side has no part in. -/
def PortBlind (f : State → Except Fault State) : Prop :=
  ∀ h b x s, f (s.withPort h b x) = (f s).map (State.withPort h b x)

/-- The same for an activity that also answers a value. -/
def PortBlindRead {α : Type} (f : State → Except Fault (α × State)) : Prop :=
  ∀ h b x s, f (s.withPort h b x) = (f s).map (fun r => (r.1, r.2.withPort h b x))

theorem blind_ok (f : State → State) (hf : ∀ h b x s, f (s.withPort h b x) = (f s).withPort h b x) :
    PortBlind (fun s => .ok (f s)) := fun h b x s => congrArg Except.ok (hf h b x s)

theorem blind_bind {f g : State → Except Fault State} (hf : PortBlind f) (hg : PortBlind g) :
    PortBlind (fun s => f s >>= g) := by
  intro h b x s
  change f (s.withPort h b x) >>= g = Except.map _ (f s >>= g)
  rw [hf h b x s]
  cases f s with
  | error e => rfl
  | ok u => exact hg h b x u

theorem blind_bind_read {α : Type} {f : State → Except Fault State} {g : State → Except Fault (α × State)}
    (hf : PortBlind f) (hg : PortBlindRead g) : PortBlindRead (fun s => f s >>= g) := by
  intro h b x s
  change f (s.withPort h b x) >>= g = Except.map _ (f s >>= g)
  rw [hf h b x s]
  cases f s with
  | error e => rfl
  | ok u => exact hg h b x u

theorem blind_read_bind {α : Type} {f : State → Except Fault (α × State)} {g : α × State → Except Fault State}
    (hf : PortBlindRead f) (hg : ∀ a, PortBlind (fun s => g (a, s))) : PortBlind (fun s => f s >>= g) := by
  intro h b x s
  change f (s.withPort h b x) >>= g = Except.map _ (f s >>= g)
  rw [hf h b x s]
  cases f s with
  | error e => rfl
  | ok u => exact hg u.1 h b x u.2

theorem blind_read_read {α β : Type} {f : State → Except Fault (α × State)}
    {g : α × State → Except Fault (β × State)} (hf : PortBlindRead f) (hg : ∀ a, PortBlindRead (fun s => g (a, s))) :
    PortBlindRead (fun s => f s >>= g) := by
  intro h b x s
  change f (s.withPort h b x) >>= g = Except.map _ (f s >>= g)
  rw [hf h b x s]
  cases f s with
  | error e => rfl
  | ok u => exact hg u.1 h b x u.2

theorem blind_error (e : Fault) : PortBlind (fun _ => .error e) := fun _ _ _ _ => rfl

/-- A condition that the host's side has no part in. -/
theorem blind_if (c : State → Prop) [∀ s, Decidable (c s)] {f g : State → Except Fault State}
    (hc : ∀ h b x s, c (s.withPort h b x) ↔ c s) (hf : PortBlind f) (hg : PortBlind g) :
    PortBlind (fun s => if c s then f s else g s) := by
  intro h b x s
  by_cases hs : c s
  · simp only [if_pos hs, if_pos ((hc h b x s).mpr hs)]
    exact hf h b x s
  · simp only [if_neg hs, if_neg (mt (hc h b x s).mp hs)]
    exact hg h b x s

/-! ### The wire primitives and the brackets -/

theorem driveCs_withPort (h : List HostOp) (b : List Word) (x : Bool) (p : Periph) (l : Bool) (s : State) :
    (s.withPort h b x).driveCs p l = (s.driveCs p l).withPort h b x := by cases p <;> rfl

theorem dropMiso_withPort (h : List HostOp) (b : List Word) (x : Bool) (s : State) :
    (s.withPort h b x).dropMiso = s.dropMiso.withPort h b x := by
  simp only [State.dropMiso, State.withPort]
  cases s.miso <;> rfl

theorem acquire_blind (p : Periph) : PortBlind (acquire p) :=
  blind_if _ (fun _ _ _ _ => Iff.rfl) (blind_ok _ (fun _ _ _ _ => rfl)) (blind_error _)

theorem release_blind : PortBlind release :=
  blind_if _ (fun _ _ _ _ => Iff.rfl) (blind_ok _ (fun _ _ _ _ => rfl)) (blind_error _)

theorem select_blind (p : Periph) : PortBlind (select p) :=
  blind_if _ (fun _ _ _ _ => Iff.rfl) (blind_ok _ (fun h b x s => by rw [driveCs_withPort]; rfl)) (blind_error _)

theorem deselect_blind (p : Periph) : PortBlind (deselect p) :=
  blind_if _ (fun _ _ _ _ => Iff.rfl) (blind_ok _ (fun h b x s => by rw [driveCs_withPort]; rfl)) (blind_error _)

theorem xfer_blind (o : Byte) : PortBlind (xfer o) := by
  intro h b x s
  cases ho : s.owner with
  | none => rw [xfer_no_owner o _ ho, xfer_no_owner o _ (by exact ho)]; rfl
  | some p =>
    cases p with
    | lcd =>
      simp only [xfer, withPort_owner, ho]
      exact blind_if (fun s => onlySelected .lcd s = true ∧ s.speed = rated .lcd) (fun _ _ _ _ => Iff.rfl)
        (blind_ok (fun s => s.shifted (.xfer .lcd o none)) (fun _ _ _ _ => rfl)) (blind_error _) h b x s
    | tp =>
      simp only [xfer, withPort_owner, ho]
      exact blind_if (fun s => onlySelected .tp s = true ∧ s.speed = rated .tp) (fun _ _ _ _ => Iff.rfl)
        (blind_ok (fun s => s.dropMiso.shifted (.xfer .tp o (some (nextMiso s))))
          (fun h b x s => by rw [dropMiso_withPort]; rfl)) (blind_error _) h b x s

theorem xferIn_blind (o : Byte) : PortBlindRead (xferIn o) :=
  fun h b x s => by
    simp only [xferIn, xfer_blind o h b x s]
    cases xfer o s <;> rfl

theorem wait_blind (n : Nat) : PortBlind (wait n) :=
  blind_if _ (fun _ _ _ _ => Iff.rfl) (blind_error _) (blind_ok _ (fun _ _ _ _ => rfl))

theorem lcdBracket_blind (p q : Byte) : PortBlind (lcdBracket p q) :=
  blind_bind (select_blind _) (blind_bind (xfer_blind _) (blind_bind (xfer_blind _) (deselect_blind _)))

theorem regWrite_blind (a v : Byte) : PortBlind (regWrite a v) := fun h b x s =>
  blind_bind (lcdBracket_blind (rsp s.cfg) a)
    (g := fun s => lcdBracket (dsp s.cfg) v s) (fun h b x s => lcdBracket_blind (dsp s.cfg) v h b x s) h b x s

theorem regWrites_blind (ws : List (Byte × Byte)) : PortBlind (regWrites ws) := by
  induction ws with
  | nil => intro h b x s; rfl
  | cons w rest ih => exact blind_bind (regWrite_blind _ _) ih

theorem winWrite_blind (x0 y0 x1 y1 : Half) : PortBlind (winWrite x0 y0 x1 y1) := fun h b x s =>
  regWrites_blind (windowWrites s.cfg.winReg x0 y0 x1 y1) h b x s

theorem runInitStep_blind (step : InitStep) : PortBlind (runInitStep step) := by
  cases step with
  | wr p a v => exact regWrite_blind a v
  | dly n => exact wait_blind n
  | win => exact fun h b x s => winWrite_blind 0 0 (logicalWidth s.orient - 1) (logicalHeight s.orient - 1) h b x s

theorem runInitTable_blind (t : List InitStep) : PortBlind (runInitTable t) := by
  induction t with
  | nil => intro h b x s; rfl
  | cons step rest ih => exact blind_bind (runInitStep_blind step) ih

/-- The end of a touch bracket that answers the value `r`. -/
theorem deselectWith_blind {α : Type} (r : α) : PortBlindRead (fun s => deselect .tp s >>= fun u => .ok (r, u)) :=
  blind_bind_read (deselect_blind .tp) (fun _ _ _ _ => rfl)

theorem adcRead8_blind (ch : Channel) : PortBlindRead (adcRead8 ch) :=
  blind_bind_read (select_blind .tp)
    (fun h b x s => blind_bind_read (xfer_blind (touchCmd s.cfg ch .bits8))
      (fun h b x s => blind_read_read (xferIn_blind s.cfg.fillByte)
        (fun r => deselectWith_blind r) h b x s) h b x s)

theorem adcRead12_blind (ch : Channel) : PortBlindRead (adcRead12 ch) :=
  blind_bind_read (select_blind .tp)
    (fun h b x s => blind_bind_read (xfer_blind (touchCmd s.cfg ch .bits12))
      (fun h b x s => blind_read_read (xferIn_blind s.cfg.fillByte)
        (fun hi h b x s => blind_read_read (xferIn_blind s.cfg.fillByte)
          (fun lo => deselectWith_blind (rawSample hi lo)) h b x s) h b x s) h b x s)

theorem adcReadTwice_blind (ch : Channel) : PortBlindRead (adcReadTwice ch) :=
  blind_read_read (adcRead12_blind ch) (fun _ => adcRead12_blind ch)

/-! ### The commands -/

theorem takeBusForReset_blind : PortBlind takeBusForReset := by
  intro h b x s
  cases hs : s.stream with
  | true => simp [takeBusForReset, hs]; rfl
  | false => simpa [takeBusForReset, hs] using acquire_blind .lcd h b x s

theorem resetController_blind : PortBlind resetController :=
  blind_bind takeBusForReset_blind
    (blind_bind (f := fun s => deselect .lcd { s with ctl := .resetting })
      (fun h b x s => deselect_blind .lcd h b x { s with ctl := .resetting })
      (blind_bind (f := fun s => wait 50 (resetLine false s)) (fun h b x s => wait_blind 50 h b x (resetLine false s))
        (blind_bind (f := fun s => wait 120 (resetLine true s))
          (fun h b x s => wait_blind 120 h b x (resetLine true s))
          (blind_bind release_blind (blind_ok _ (fun _ _ _ _ => rfl))))))

theorem configureController_blind : PortBlind configureController :=
  blind_bind (acquire_blind .lcd)
    (blind_bind (f := fun s => runInitTable s.cfg.initTable s)
      (fun h b x s => runInitTable_blind s.cfg.initTable h b x s)
      (blind_bind release_blind (blind_ok _ (fun _ _ _ _ => rfl))))

theorem writeOrientation_blind (c : BitVec 2) : PortBlind (writeOrientation c) :=
  blind_bind (acquire_blind .lcd)
    (blind_bind (f := fun s => regWrite s.cfg.orientReg (orientValue c) s)
      (fun h b x s => regWrite_blind s.cfg.orientReg (orientValue c) h b x s)
      (blind_bind release_blind (blind_ok _ (fun _ _ _ _ => rfl))))

theorem writeOneRegister_blind (a v : Byte) : PortBlind (writeOneRegister a v) :=
  blind_bind (acquire_blind .lcd) (blind_bind (regWrite_blind a v) release_blind)

theorem setWindow_blind (x0 y0 x1 y1 : Half) : PortBlind (setWindow x0 y0 x1 y1) :=
  blind_bind (acquire_blind .lcd)
    (blind_bind (winWrite_blind x0 y0 x1 y1) (blind_bind release_blind (blind_ok _ (fun _ _ _ _ => rfl))))

theorem openStream_blind : PortBlind openStream :=
  blind_bind (acquire_blind .lcd)
    (blind_bind (f := fun s => lcdBracket (rsp s.cfg) gramCmd s)
      (fun h b x s => lcdBracket_blind (rsp s.cfg) gramCmd h b x s)
      (blind_bind (select_blind .lcd)
        (blind_bind (f := fun s => xfer (dsp s.cfg) s) (fun h b x s => xfer_blind (dsp s.cfg) h b x s)
          (blind_ok _ (fun _ _ _ _ => rfl)))))

theorem streamPixel_blind (p : Half) : PortBlind (streamPixel p) := blind_bind (xfer_blind _) (xfer_blind _)

theorem closeStream_blind : PortBlind closeStream :=
  blind_bind (deselect_blind .lcd) (fun h b x s => release_blind h b x { s with stream := false })

theorem probePressure_blind (h : List HostOp) (b : List Word) (x : Bool) (s : State) :
    probePressure (s.withPort h b x) = (probePressure s).map (fun r => (r.1, r.2.1, r.2.2.withPort h b x)) := by
  unfold probePressure
  rw [acquire_blind .tp h b x s]
  cases acquire .tp s with
  | error e => rfl
  | ok u =>
    simp only [Except.map, except_ok_bind]
    rw [adcRead8_blind .z1 h b x u]
    cases adcRead8 .z1 u with
    | error e => rfl
    | ok v =>
      simp only [Except.map, except_ok_bind]
      rw [adcRead8_blind .z2 h b x v.2]
      cases adcRead8 .z2 v.2 <;> rfl

theorem pollNoContact_blind (z1 z2 : Byte) : PortBlind (pollNoContact z1 z2) :=
  blind_bind release_blind (blind_ok _ (fun _ _ _ _ => rfl))

theorem pollContact_blind (z1 z2 : Byte) : PortBlind (pollContact z1 z2) :=
  blind_read_bind (adcReadTwice_blind .x) (fun _ => blind_read_bind (adcReadTwice_blind .y)
    (fun _ => blind_bind release_blind (blind_ok _ (fun _ _ _ _ => rfl))))

theorem pollTouch_blind : PortBlind pollTouch := by
  intro h b x s
  unfold pollTouch
  rw [probePressure_blind h b x s]
  cases probePressure s with
  | error e => rfl
  | ok r =>
    change chooseBranch (noContact r.2.2.cfg (pressure r.1 r.2.1)) (pollNoContact r.1 r.2.1 (r.2.2.withPort h b x))
        (pollContact r.1 r.2.1 (r.2.2.withPort h b x)) =
      Except.map _ (chooseBranch (noContact r.2.2.cfg (pressure r.1 r.2.1)) (pollNoContact r.1 r.2.1 r.2.2)
        (pollContact r.1 r.2.1 r.2.2))
    rw [chooseBranch_eq, chooseBranch_eq]
    cases noContact r.2.2.cfg (pressure r.1 r.2.1) with
    | true => exact pollNoContact_blind _ _ h b x r.2.2
    | false => exact pollContact_blind _ _ h b x r.2.2

/-- A command, or a part of one, whose next state depends on the host's side only in carrying the host operations. -/
def CommandBlind (f : State → Host.Outcome State Fault Refusal) : Prop :=
  ∀ h b x s t, f s = .next t → f (s.withPort h b x) = .next { t with hostOps := h }

theorem raise_blind (code : Result) : CommandBlind (raise code) := by
  intro h b x s t ht
  cases ht
  rfl

theorem finish_blind {f : State → Except Fault State} (hf : PortBlind f) : CommandBlind (fun s => finish (f s)) := by
  intro h b x s t ht
  obtain ⟨u, hu, rfl⟩ := (finish_eq_next _ _).mp ht
  change finish (f (s.withPort h b x)) = _
  rw [hf h b x s, hu]
  rfl

/-- A guard that the host's side has no part in. -/
theorem guard_blind (c : State → Prop) [∀ s, Decidable (c s)] {f g : State → Host.Outcome State Fault Refusal}
    (hc : ∀ h b x s, c (s.withPort h b x) ↔ c s) (hf : CommandBlind f) (hg : CommandBlind g) :
    CommandBlind (fun s => if c s then f s else g s) := by
  intro h b x s t ht
  by_cases hs : c s
  · simp only [if_pos hs, if_pos ((hc h b x s).mpr hs)] at ht ⊢
    exact hf h b x s t ht
  · simp only [if_neg hs, if_neg (mt (hc h b x s).mp hs)] at ht ⊢
    exact hg h b x s t ht

/-- Which host accesses are to come, which words the collector holds and what BUSY reads have no part in what a command
does, and it changes no host access. -/
theorem exec_blind (i : Instr) : CommandBlind (exec i) := by
  cases i with
  | reset => exact finish_blind resetController_blind
  | config =>
    exact guard_blind _ (fun _ _ _ _ => Iff.rfl) (raise_blind _)
      (guard_blind _ (fun _ _ _ _ => Iff.rfl) (raise_blind _) (finish_blind configureController_blind))
  | setori deg =>
    refine guard_blind _ (fun _ _ _ _ => Iff.rfl) (raise_blind _)
      (guard_blind _ (fun _ _ _ _ => Iff.rfl) (raise_blind _) ?_)
    cases orientCode? deg with
    | none => exact raise_blind _
    | some c => exact finish_blind (writeOrientation_blind c)
  | wrreg a v =>
    exact guard_blind _ (fun _ _ _ _ => Iff.rfl) (raise_blind _)
      (guard_blind _ (fun _ _ _ _ => Iff.rfl) (raise_blind _) (finish_blind (writeOneRegister_blind a v)))
  | setwin x0 y0 x1 y1 =>
    exact guard_blind _ (fun _ _ _ _ => Iff.rfl) (raise_blind _)
      (guard_blind _ (fun _ _ _ _ => Iff.rfl) (raise_blind _) (finish_blind (setWindow_blind x0 y0 x1 y1)))
  | beginStream =>
    exact guard_blind _ (fun _ _ _ _ => Iff.rfl) (raise_blind _)
      (guard_blind _ (fun _ _ _ _ => Iff.rfl) (raise_blind _)
        (guard_blind _ (fun _ _ _ _ => Iff.rfl) (raise_blind _) (finish_blind openStream_blind)))
  | pixel p =>
    exact guard_blind _ (fun _ _ _ _ => Iff.rfl) (raise_blind _) (finish_blind (streamPixel_blind p))
  | byte c => exact guard_blind _ (fun _ _ _ _ => Iff.rfl) (raise_blind _) (finish_blind (xfer_blind c))
  | endStream => exact guard_blind _ (fun _ _ _ _ => Iff.rfl) (raise_blind _) (finish_blind closeStream_blind)
  | tpoll => exact guard_blind _ (fun _ _ _ _ => Iff.rfl) (raise_blind _) (finish_blind pollTouch_blind)

end Sys2Proof.Machine
end

