-- ==== Sys2Proof/Laws/Step.lean ====
section
/-! SUPPORT. What the collector, a host access and a step can do, said once (rules R71, R77, R78, R91). -/

namespace Sys2Proof.Machine

/-- The collection of a word (rule R91). -/
theorem collect_eq_ok (w : Word) (s t : State) :
    collect w s = .ok t ↔
      (s.pend = 0 ∧ w = setwinWord0 ∧ t = { s with cbuf := [w], pend := 2 }) ∨
      (s.pend = 0 ∧ w ≠ setwinWord0 ∧ t = { s with cbuf := [w], busy := true }) ∨
      (s.pend = 1 ∧ t = { s with cbuf := s.cbuf ++ [w], pend := 0, busy := true }) ∨
      (s.pend = 2 ∧ t = { s with cbuf := s.cbuf ++ [w], pend := 1 }) := by
  unfold collect
  split <;> rename_i h0
  · split <;> rename_i hw <;> simp [h0, hw, eq_comm]
  · split <;> rename_i h1
    · simp [h1, eq_comm]
    · split <;> rename_i h2
      · simp [h2, eq_comm]
      · simp_all

/-- The host's access, or block reset (rules R40, R47, R71, R290). -/
theorem hostMove_eq_ok (op : HostOp) (d s t : State) (h : hostMove op d s = .ok t) :
    (∃ bytes v, op = .write 0 bytes v ∧ admitted 0 bytes = true ∧ collect v s = .ok t) ∨
      (∃ off bytes v, op = .write off bytes v ∧ off ≠ 0 ∧ admitted off bytes = true ∧ t = s) ∨
      (∃ off bytes, op = .read off bytes ∧ admitted off bytes = true ∧ t = { s with
        readLog := s.readLog ++ [⟨off, readRegister (readView s d) off⟩]
        busyReads := if s.busy then s.busyReads + 1 else s.busyReads }) ∨
      (op = .awaitIdle ∧ t = s) ∨
      ∃ k, op = .blockReset k ∧ t = blockReset (if s.busy then abandonAfter k d.trace s else s) := by
  cases op with
  | write off bytes v =>
    simp only [hostMove, hostWrite] at h
    split at h <;> rename_i ha
    · split at h <;> rename_i ho
      · subst ho
        exact .inl ⟨bytes, v, rfl, ha, h⟩
      · cases h
        exact .inr (.inl ⟨off, bytes, v, rfl, ho, ha, rfl⟩)
    · cases h
  | read off bytes =>
    simp only [hostMove, hostRead] at h
    split at h <;> rename_i ha
    · cases h
      exact .inr (.inr (.inl ⟨off, bytes, rfl, ha, rfl⟩))
    · cases h
  | awaitIdle =>
    cases h
    exact .inr (.inr (.inr (.inl ⟨rfl, rfl⟩)))
  | blockReset k =>
    cases h
    exact .inr (.inr (.inr (.inr ⟨k, rfl, rfl⟩)))

/-- A step that answers a next state: the accepted command ran, or the host's access or block reset was carried out, or
nothing happened. -/
theorem step_cases (s t : State) (h : step s = .next t) :
    configLegal s.cfg = true ∧
      ((s.busy = true ∧ HostWaits s ∧ runCommand s = .next t) ∨
        (∃ op rest, s.hostOps = op :: rest ∧ (s.busy && holdsBack op) = false ∧
          hostMove op (completionOf s).dropHostOp s.dropHostOp = .ok t) ∨
        (s.busy = false ∧ s.hostOps = [] ∧ t = s)) := by
  unfold step at h
  split at h <;> rename_i hc
  · refine ⟨hc, ?_⟩
    unfold nextMove at h
    unfold HostWaits
    cases ho : s.hostOps with
    | nil =>
      rw [ho] at h
      cases hb : s.busy <;> simp only [hb, if_true, if_false, Bool.false_eq_true] at h
      · cases h
        exact .inr (.inr ⟨rfl, rfl, rfl⟩)
      · exact .inl ⟨rfl, by simp, h⟩
    | cons op rest =>
      rw [ho] at h
      cases hb : (s.busy && holdsBack op) <;> simp only [hb, if_true, if_false, Bool.false_eq_true] at h
      · refine .inr (.inl ⟨op, rest, rfl, hb, ?_⟩)
        unfold moveOutcome at h
        split at h <;> rename_i u hu
        · cases h
          exact hu
        · cases h
      · rw [Bool.and_eq_true] at hb
        exact .inl ⟨hb.1, by simpa using hb.2, h⟩
  · cases h

/-- The accepted command (rules R100, R101). -/
theorem runCommand_eq_next (s t : State) (h : runCommand s = .next t) :
    (∃ i, decode s.cbuf = .ok i ∧ exec i s = .next t) ∨
      (decode s.cbuf = .error .illegal ∧ t = complete .illegalCommand s) := by
  unfold runCommand at h
  split at h <;> rename_i hd
  · exact .inl ⟨_, hd, h⟩
  · cases h
    exact .inr ⟨hd, rfl⟩
  · cases h

end Sys2Proof.Machine
end

