-- ==== Sys2Proof/Laws/Wire.lean ====
section
/-! SUPPORT. The wire monitor over the event lists the commands append (rules R36, R37, R130, R143, R191). -/

namespace Sys2Proof.Machine

theorem run_append (m : WireMonitor) (es fs : List Event) :
    m.run (es ++ fs) = (m.run es).bind (fun m' => m'.run fs) := by
  induction es generalizing m with
  | nil => rfl
  | cons e rest ih =>
    simp only [List.cons_append, WireMonitor.run]
    cases m.next e with
    | none => rfl
    | some m' => exact ih m'

/-- The wire with nothing selected, the reset line released and nothing owed. -/
def WireMonitor.quiet (v : Speed) : WireMonitor := ⟨v, true, true, true, 0⟩

/-- A first part of an allowed trace is allowed. -/
theorem run_prefix (m : WireMonitor) (es fs : List Event) (h : (m.run (es ++ fs)).isSome = true) :
    (m.run es).isSome = true := by
  rw [run_append] at h
  cases hr : m.run es with
  | none => simp [hr] at h
  | some m' => rfl

/-- Appending events that the monitor allows keeps the discipline. -/
theorem discipline_append (s t : State) (es : List Event) (h : WireDiscipline s) (ht : t.trace = s.trace ++ es)
    (he : t.epochs = s.epochs)
    (hr : WireMonitor.run ⟨s.speed, s.csLcdN, s.csTpN, s.rstN, 0⟩ es =
      some ⟨t.speed, t.csLcdN, t.csTpN, t.rstN, 0⟩) : WireDiscipline t := by
  refine ⟨?_, he ▸ h.2⟩
  rw [ht, run_append, h.1]
  exact hr

@[simp] theorem run_speed (v w : Speed) (es : List Event) :
    (WireMonitor.quiet v).run (.speed w :: es) = (WireMonitor.quiet w).run es := rfl

theorem run_bracket (a b : Byte) (es : List Event) :
    (WireMonitor.quiet .disp).run (bracketEvents a b ++ es) = (WireMonitor.quiet .disp).run es := rfl

theorem run_regWrite (c : Config) (a v : Byte) (es : List Event) :
    (WireMonitor.quiet .disp).run (regWriteEvents c a v ++ es) = (WireMonitor.quiet .disp).run es := rfl

theorem run_regWrites (c : Config) (ws : List (Byte × Byte)) (es : List Event) :
    (WireMonitor.quiet .disp).run (regWritesEvents c ws ++ es) = (WireMonitor.quiet .disp).run es := by
  induction ws with
  | nil => rfl
  | cons w rest ih =>
    have : regWritesEvents c (w :: rest) ++ es = regWriteEvents c w.1 w.2 ++ (regWritesEvents c rest ++ es) := by
      simp [regWritesEvents]
    rw [this, run_regWrite, ih]

theorem run_initStep (c : Config) (o : BitVec 2) (step : InitStep) (es : List Event) :
    (WireMonitor.quiet .disp).run (initStepEvents c o step ++ es) = (WireMonitor.quiet .disp).run es := by
  cases step with
  | wr _ a v => exact run_regWrite c a v es
  | dly n => simp [initStepEvents, WireMonitor.run, WireMonitor.next, WireMonitor.quiet]
  | win => exact run_regWrites c _ es

theorem run_initTable (c : Config) (o : BitVec 2) (t : List InitStep) (es : List Event) :
    (WireMonitor.quiet .disp).run (initTableEvents c o t ++ es) = (WireMonitor.quiet .disp).run es := by
  induction t with
  | nil => rfl
  | cons step rest ih =>
    have : initTableEvents c o (step :: rest) ++ es = initStepEvents c o step ++ (initTableEvents c o rest ++ es) := by
      simp [initTableEvents]
    rw [this, run_initStep, ih]

theorem run_adc8 (c : Config) (ch : Channel) (i r : Byte) (es : List Event) :
    (WireMonitor.quiet .touch).run (adc8Events c ch i r ++ es) = (WireMonitor.quiet .touch).run es := rfl

theorem run_adc12 (c : Config) (ch : Channel) (i hi lo : Byte) (es : List Event) :
    (WireMonitor.quiet .touch).run (adc12Events c ch i hi lo ++ es) = (WireMonitor.quiet .touch).run es := rfl

theorem run_probe (s : State) (v : Speed) (es : List Event) :
    (WireMonitor.quiet v).run (probeEvents s ++ es) = (WireMonitor.quiet .touch).run es := rfl

theorem run_axes (s : State) (es : List Event) :
    (WireMonitor.quiet .touch).run (axisEvents s ++ es) = (WireMonitor.quiet .touch).run es := rfl

theorem run_resetPulse (v : Speed) (lcd : Bool) :
    WireMonitor.run ⟨v, lcd, true, true, 0⟩ resetPulseEvents = some (WireMonitor.quiet v) := by
  cases lcd <;> simp [resetPulseEvents, WireMonitor.run, WireMonitor.next, WireMonitor.quiet]

end Sys2Proof.Machine
end

