-- ==== Sys2Proof/Machine/Assembler.lean ====
section
/-! DEFINITION. The text of a source line (rules R105, R106, R110), one command, host line or pseudo-command a line: the
mnemonic, then its operands separated by commas. Between them stand blanks or tabs, which the spec does not describe
(PRESUMED, assumption log 19). -/

namespace Sys2Proof.Machine

/-- A blank between the parts of a line. -/
def isBlank (c : Char) : Bool := c == ' ' || c == '\t'

/-- What stands before a comment: `;` starts one (rule R105). -/
def dropComment (cs : List Char) : List Char := cs.takeWhile (fun c => c != ';')

/-- A part of a line without the blanks around it. -/
def trimBlanks (cs : List Char) : List Char :=
  ((cs.dropWhile isBlank).reverse.dropWhile isBlank).reverse

/-- The value of a digit in base 10 or 16, if it is one. -/
def digitValue (base : Nat) (c : Char) : Option Nat :=
  let n := c.toNat
  let v := if 48 ≤ n ∧ n ≤ 57 then n - 48
    else if 97 ≤ n ∧ n ≤ 102 then n - 87
    else if 65 ≤ n ∧ n ≤ 70 then n - 55 else base
  if v < base then some v else none

/-- Digits, the first the highest, after the digits of `acc`. -/
def digitsFrom (base : Nat) : Nat → List Char → Option Nat
  | acc, [] => some acc
  | acc, c :: rest =>
    match digitValue base c with
    | some v => digitsFrom base (acc * base + v) rest
    | none => none

/-- A number: decimal, or `0x` hexadecimal (rule R105). -/
def parseNumber (cs : List Char) : Option Nat :=
  match cs with
  | [] => none
  | ['0', 'x'] => none
  | '0' :: 'x' :: digits => digitsFrom 16 0 digits
  | digits => digitsFrom 10 0 digits

/-- Every operand as a number, if every one is. -/
def parseNumbers : List (List Char) → Option (List Nat)
  | [] => some []
  | c :: rest =>
    match parseNumber c, parseNumbers rest with
    | some n, some ns => some (n :: ns)
    | _, _ => none

/-- The parts between commas; `acc` is the part read so far. -/
def splitCommas : List Char → List Char → List (List Char)
  | acc, [] => [trimBlanks acc]
  | acc, c :: rest => if c == ',' then trimBlanks acc :: splitCommas [] rest else splitCommas (acc ++ [c]) rest

/-- The operands of a line, from what follows the mnemonic. -/
def splitOperands (cs : List Char) : List (List Char) :=
  if trimBlanks cs = [] then [] else splitCommas [] cs

/-- A number of bytes as pairs, if it is even (rule R110: `b0` to `b2n-1`). -/
def pairUp : List Nat → Option (List (Nat × Nat))
  | [] => some []
  | [_] => none
  | a :: b :: rest =>
    match pairUp rest with
    | some ps => some ((a, b) :: ps)
    | none => none

/-- The register a READ names (rules R40 to R46, R106). -/
def registerNamed (name : List Char) : Option HostReg :=
  if name = "CMD".toList then some .cmd
  else if name = "STATUS".toList then some .status
  else if name = "GEOMETRY".toList then some .geometry
  else if name = "TOUCH_STATUS".toList then some .touchStatus
  else if name = "TOUCH_X".toList then some .touchX
  else if name = "TOUCH_Y".toList then some .touchY
  else if name = "TOUCH_RAW_Z".toList then some .touchRawZ
  else if name = "TOUCH_RAW_XY".toList then some .touchRawXY
  else none

/-- The line of a mnemonic and its operands as numbers (rules R105, R106, R110). -/
def lineOf (mnemonic : List Char) (operands : List Nat) : Option Line :=
  match operands with
  | [] =>
    if mnemonic = "RESET".toList then some .reset
    else if mnemonic = "CONFIG".toList then some .config
    else if mnemonic = "BEGIN".toList then some .beginStream
    else if mnemonic = "END".toList then some .endStream
    else if mnemonic = "TPOLL".toList then some .tpoll
    else if mnemonic = "WAITIDLE".toList then some .waitIdle
    else if mnemonic = "POLL".toList then some .poll
    else none
  | [a] =>
    if mnemonic = "SETORI".toList then some (.setori a)
    else if mnemonic = "PIXEL".toList then some (.pixel a)
    else if mnemonic = "BYTE".toList then some (.byte a)
    else if mnemonic = ".word".toList then some (.rawWord a)
    else if mnemonic = "BOOT".toList then some (.boot a)
    else none
  | [a, b] => if mnemonic = "WRREG".toList then some (.wrreg a b) else none
  | x0 :: y0 :: x1 :: y1 :: rest =>
    if mnemonic = "FLUSH".toList then some (.flush x0 y0 x1 y1 rest)
    else if mnemonic = "FLUSHLE".toList then (pairUp rest).map (.flushLe x0 y0 x1 y1)
    else if mnemonic = "SETWIN".toList ∧ rest = [] then some (.setwin x0 y0 x1 y1)
    else none
  | _ => none

/-- The lines in the text of one: none if it is blank or a comment. The outer `none` is an assembly error. -/
def parseLine (text : List Char) : Option (List Line) :=
  let body := trimBlanks (dropComment text)
  let mnemonic := body.takeWhile (fun c => !isBlank c)
  let operands := splitOperands (body.dropWhile (fun c => !isBlank c))
  if body = [] then some []
  else if mnemonic = "READ".toList then
    match operands with
    | [name] => (registerNamed name).map (fun r => [.readReg r])
    | _ => none
  else
    match parseNumbers operands with
    | some ns => (lineOf mnemonic ns).map (fun l => [l])
    | none => none

/-- The lines of a program. -/
def parseProgram : List (List Char) → Option (List Line)
  | [] => some []
  | t :: rest =>
    match parseLine t, parseProgram rest with
    | some a, some b => some (a ++ b)
    | _, _ => none

/-- The host's actions for the text of a program, if every line assembles (rules R105, R106, R110). -/
def assembleText (text : List (List Char)) : Option (List HostOp) :=
  match parseProgram text with
  | some lines => assemble lines
  | none => none

end Sys2Proof.Machine
end

