-- ==== Sys2Proof/Tests/Slice0.lean ====
section
/-! SUPPORT. Our own tests. The expected results are the spec's: its test vectors (95_test_vectors.md, by section), its
tables and its examples. Then, for every statement with hypotheses, a witness that they can be met. -/

namespace Sys2Proof.Tests

open Sys2Proof.Machine

/-! ### States to start from -/

/-- READY, a window armed. -/
def ready : State := { State.reset with ctl := .ready, winArmed := true }

/-- CONFIGURING. -/
def configuring : State := { State.reset with ctl := .configuring }

/-- READY, a pixel stream open. -/
def streaming : State :=
  { State.reset with ctl := .ready, stream := true, owner := some .lcd, csLcdN := false }

/-- `s` with the words accepted, the host waiting for them. -/
def accepted (ws : List Word) (s : State) : State := acceptedWith ws s

/-- `s` with one host operation to do. -/
def hosting (op : HostOp) (s : State) : State := { s with hostOps := [op] }

/-- The state a step answers, if it answers one. -/
def next? (o : Host.Outcome State Fault Refusal) : Option State :=
  match o with
  | .next t => some t
  | _ => none

/-- What one step of the accepted words `ws` from `s` shows, through `f`. -/
def stepShows {α : Type} (ws : List Word) (s : State) (f : State → α) : Option α :=
  (next? (step (accepted ws s))).map f

/-- One register write with device id 0, event by event (rule R151, and 95's shorthand `W(a, v)`). -/
def W (a v : Byte) : List Event :=
  [.cs .lcd false, .xfer .lcd 0x70 none, .xfer .lcd a none, .cs .lcd true,
   .cs .lcd false, .xfer .lcd 0x72 none, .xfer .lcd v none, .cs .lcd true]

/-! ### WellFormed: each check refuses an ill-formed line (rule R105) -/

theorem test_setori_too_wide : (Line.setori 65536).wellFormed = false := by decide
theorem test_wrreg_addr_too_wide : (Line.wrreg 256 0).wellFormed = false := by decide
theorem test_wrreg_val_too_wide : (Line.wrreg 0 256).wellFormed = false := by decide
theorem test_setwin_x0_too_wide : (Line.setwin 65536 0 0 0).wellFormed = false := by decide
theorem test_setwin_y0_too_wide : (Line.setwin 0 65536 0 0).wellFormed = false := by decide
theorem test_setwin_x1_too_wide : (Line.setwin 0 0 65536 0).wellFormed = false := by decide
theorem test_setwin_y1_too_wide : (Line.setwin 0 0 0 65536).wellFormed = false := by decide
theorem test_pixel_too_wide : (Line.pixel 65536).wellFormed = false := by decide
theorem test_byte_too_wide : (Line.byte 256).wellFormed = false := by decide
theorem test_raw_word_too_wide : (Line.rawWord (2 ^ 32)).wellFormed = false := by decide
theorem test_boot_too_wide : (Line.boot 65536).wellFormed = false := by decide
theorem test_flush_pixel_too_wide : (Line.flush 0 0 1 0 [0, 65536]).wellFormed = false := by decide
theorem test_flush_window_too_wide : (Line.flush 0 0 65536 0 [0]).wellFormed = false := by decide
theorem test_flushLe_byte_too_wide : (Line.flushLe 0 0 0 0 [(0, 256)]).wellFormed = false := by decide
theorem test_flushLe_window_too_wide : (Line.flushLe 0 0 0 65536 [(0, 0)]).wellFormed = false := by decide
/-- The widest operands do fit (rule R105: "each 0..65535", "each 0..255"). -/
theorem test_widest_fit : (Line.setwin 65535 65535 65535 65535).wellFormed = true ∧
    (Line.wrreg 255 255).wellFormed = true ∧ (Line.setori 65535).wellFormed = true := by decide

/-! ### Decoding: words written out from the encodings (rules R92 to R98; 95, section 2.1) -/

theorem test_decode_reset : decode [0x01000000] = .ok .reset := by decide
theorem test_decode_config : decode [0x02000000] = .ok .config := by decide
theorem test_decode_setori : decode [0x0300005A] = .ok (.setori 90) := by decide
theorem test_decode_setori_360 : decode [0x03000168] = .ok (.setori 360) := by decide
theorem test_decode_wrreg : decode [0x04001705] = .ok (.wrreg 0x17 0x05) := by decide
theorem test_decode_setwin : decode [0x05000000, 0x12340056, 0x0100ABCD] = .ok (.setwin 0x1234 0x0056 0x0100 0xABCD) := by
  decide
theorem test_decode_begin : decode [0x06000000] = .ok .beginStream := by decide
theorem test_decode_pixel : decode [0x0700F800] = .ok (.pixel 0xF800) := by decide
theorem test_decode_byte : decode [0x080000AB] = .ok (.byte 0xAB) := by decide
theorem test_decode_end : decode [0x09000000] = .ok .endStream := by decide
theorem test_decode_tpoll : decode [0x0A000000] = .ok .tpoll := by decide

/-- Every illegal word0 that section 2.1 lists, and 2.6's, is refused. -/
theorem test_decode_illegal : ([0x00000000, 0x01000001, 0x03010000, 0x04FF1705, 0x05000001, 0x07010000, 0x080001AB,
    0x0A000001, 0x0B000000, 0xFF000000, 0x01800000] : List Word).all (fun w => decide (decode [w] = .error .illegal)) =
    true := by decide

theorem test_table_word_one : decodeTableWord 32 0x0300005A = some (.setori 90) := by decide
theorem test_table_word_short : decodeTableWord 32 0x05000000 = some (.setwin 0 0 0 0) := by decide
theorem test_table_word_three : decodeTableWord 96 0x000B0014000A001405000000 = some (.setwin 10 20 11 20) := by decide
theorem test_table_word_illegal : decodeTableWord 32 0x0B000000 = none := by decide

/-! ### The assembler (rules R105, R106, R110) -/

theorem test_assemble_setwin : assembleText ["SETWIN 10, 20, 11, 20   ; a window".toList] =
    some [.write 0 4 0x05000000, .write 0 4 0x000A0014, .write 0 4 0x000B0014] := by decide
theorem test_assemble_hex_and_read : assembleText ["WRREG 0x17, 0x05".toList, "WAITIDLE".toList, "READ TOUCH_X".toList] =
    some [.write 0 4 0x04001705, .awaitIdle, .read 0x10 4] := by decide
theorem test_assemble_raw_word : assembleText [".word 0x01800000".toList] = some [.write 0 4 0x01800000] := by decide
theorem test_assemble_operand_too_wide : assembleText ["BYTE 256".toList] = none := by decide
/-- 95, section 2.5: `00 F8 E0 07` are the pixels 0xF800 and 0x07E0. -/
theorem test_assemble_little_endian : assembleText ["FLUSHLE 0, 0, 1, 0, 0x00, 0xF8, 0xE0, 0x07".toList] =
    assembleText ["FLUSH 0, 0, 1, 0, 0xF800, 0x07E0".toList] := by decide
theorem test_assemble_boot : assembleText ["BOOT 90".toList] =
    some [.write 0 4 0x01000000, .awaitIdle, .write 0 4 0x02000000, .awaitIdle, .write 0 4 0x0300005A, .awaitIdle] := by
  decide

/-! ### One step of each command (95, sections 2.3 to 2.10) -/

/-- 2.6, UNPOWERED: six events, STATE 2 after. -/
theorem test_reset_unpowered : stepShows [0x01000000] State.reset (fun t => (t.trace, statusWord t)) =
    some ([.speed .disp, .cs .lcd true, .rst false, .wait 50, .rst true, .wait 120], 0x00000002) := by decide

/-- 2.6, stream open: no SPEED event, the stream is gone. -/
theorem test_reset_cuts_stream : stepShows [0x01000000] streaming (fun t => (t.trace, statusWord t)) =
    some ([.cs .lcd true, .rst false, .wait 50, .rst true, .wait 120], 0x00000002) := by decide

set_option maxRecDepth 20000 in
/-- 2.7: 271 events; P1: STATUS 0x00010003 after CONFIG. -/
theorem test_config_runs_table : stepShows [0x02000000] configuring (fun t => (t.trace.length, statusWord t)) =
    some (271, 0x00010003) := by decide

/-- 2.7: CONFIG in READY is result 3, no event. -/
theorem test_config_wrong_state : stepShows [0x02000000] ready (fun t => (t.trace, resultCode t.result)) =
    some ([], 3) := by decide

/-- 2.8: SETORI 270, and GEOMETRY after it. -/
theorem test_setori_270 : stepShows [0x0300010E] ready (fun t => (t.trace, t.orient, readRegister t 0x08)) =
    some (.speed .disp :: W 0x16 0x68, 3, 0x00F00140) := by decide

/-- 2.8: with a stream open SETORI 45 is result 4; in CONFIGURING it is 3, before INVALID_ORIENTATION; in READY 1. -/
theorem test_setori_45_order : [streaming, configuring, ready].map
    (fun s => stepShows [0x0300002D] s (fun t => (t.trace, resultCode t.result))) =
    [some ([], 4), some ([], 3), some ([], 1)] := by decide

/-- 2.3: WRREG in CONFIGURING. -/
theorem test_wrreg_configuring : stepShows [0x040000FF] configuring (fun t => (t.trace, resultCode t.result)) =
    some (.speed .disp :: W 0x00 0xFF, 0) := by decide

/-- 2.3: WRREG to ORIENT_REG leaves ORIENT alone; UNPOWERED, it is result 3. -/
theorem test_wrreg_keeps_orient : stepShows [0x04001668] ready (fun t => (t.orient, t.winArmed)) = some (0, true) ∧
    stepShows [0x04001705] State.reset (fun t => resultCode t.result) = some 3 := by decide

/-- L1-4: the eight writes of `SETWIN 0x1234, 0x0056, 0x0100, 0xABCD`. -/
theorem test_setwin_writes : stepShows [0x05000000, 0x12340056, 0x0100ABCD] ready (fun t => t.trace) =
    some (.speed .disp :: (W 0x03 0x34 ++ W 0x02 0x12 ++ W 0x05 0x00 ++ W 0x04 0x01 ++
      W 0x07 0x56 ++ W 0x06 0x00 ++ W 0x09 0xCD ++ W 0x08 0xAB)) := by decide

/-- 2.4: not in CONFIGURING, and WIN_ARMED unchanged. -/
theorem test_setwin_configuring : stepShows [0x05000000, 0, 0] configuring
    (fun t => (t.trace, resultCode t.result, t.winArmed)) = some ([], 3, false) := by decide

/-- 2.5: BEGIN with a window armed. -/
theorem test_begin_opens : stepShows [0x06000000] ready (fun t => (t.trace, t.stream, t.winArmed)) =
    some ([.speed .disp, .cs .lcd false, .xfer .lcd 0x70 none, .xfer .lcd 0x22 none, .cs .lcd true,
      .cs .lcd false, .xfer .lcd 0x72 none], true, false) := by decide

/-- 2.5: BEGIN without one is result 3. -/
theorem test_begin_unarmed : stepShows [0x06000000] { ready with winArmed := false }
    (fun t => (t.trace, resultCode t.result, t.stream)) = some ([], 3, false) := by decide

/-- 2.5: `PIXEL 0x001F`, high byte first. -/
theorem test_pixel_high_first : stepShows [0x0700001F] streaming (fun t => (t.trace, t.stream)) =
    some ([.xfer .lcd 0x00 none, .xfer .lcd 0x1F none], true) := by decide

/-- 2.5: PIXEL without a stream is result 3, no event. -/
theorem test_pixel_no_stream : stepShows [0x0700F800] ready (fun t => (t.trace, resultCode t.result)) =
    some ([], 3) := by decide

/-- 2.5: `BYTE 0xAB`. -/
theorem test_byte_streams : stepShows [0x080000AB] streaming (fun t => (t.trace, t.stream)) =
    some ([.xfer .lcd 0xAB none], true) := by decide

theorem test_byte_no_stream : stepShows [0x08000000] ready (fun t => (t.trace, resultCode t.result)) =
    some ([], 3) := by decide

/-- 2.5: END. -/
theorem test_end_closes : stepShows [0x09000000] streaming (fun t => (t.trace, t.stream, t.owner, t.csLcdN)) =
    some ([.cs .lcd true], false, none, true) := by decide

theorem test_end_no_stream : stepShows [0x09000000] ready (fun t => (t.trace, resultCode t.result)) =
    some ([], 3) := by decide

/-- The touch controller's answers of the first row of section 2.10; the bytes the poll discards are 0xFF. -/
def contactScript : List Byte := pollScript (fun _ => 0xFF) 0x40 0xC0 0x3E 0x80 0x3E 0x80

/-- 2.10, first row: all five touch registers, and the number of events. -/
theorem test_tpoll_contact : stepShows [0x0A000000] { ready with miso := contactScript } (fun t =>
    ([0x0C, 0x10, 0x14, 0x18, 0x1C].map (readRegister t), t.trace.length)) =
    some ([0x00007F01, 119, 153, 0x0000C040, 0x07D007D0], 29) := by decide

/-- 2.10, second row: no contact, nine events, no X or Y byte taken. -/
theorem test_tpoll_no_contact : stepShows [0x0A000000] { ready with miso := [0, 0x00, 0, 0xFF, 0x55] } (fun t =>
    ([0x0C, 0x10, 0x14, 0x18, 0x1C].map (readRegister t), t.trace.length, t.miso)) =
    some ([0, 0, 0, 0x0000FF00, 0], 9, [0x55]) := by decide

/-- 2.6: an illegal word is result 5, no event. -/
theorem test_illegal_word : stepShows [0x01800000] ready (fun t => (t.trace, statusWord t)) =
    some ([], 0x00010583) := by decide

/-! ### Init tables (rule R199) -/

/-- The steps of item 3 with the given delays. -/
def onSteps (n1 n2 : Nat) : List InitStep :=
  [.wr .colourMode65k 0x17 0x05, .wr .panelCharacteristic 0x36 0x00, .win, .wr .displayEnable 0x28 0x38, .dly n1,
   .wr .displayFullEnable 0x28 0x3C, .dly n2]

/-- The least table: one write for each phase of item 2, the stages, item 3's steps. -/
def leastTable (stages on : List InitStep) : List InitStep :=
  [.wr .drivingStrength 0xEA 0, .wr .trim 0x23 0, .wr .oscillatorStart 0x19 1, .wr .wake 1 0] ++ stages ++ on

theorem test_table_least : initTableLegal (leastTable defaultPowerSteps (onSteps 50 5)) = true := by decide

/-- Item 1: a stage out of order, a stage left out, a delay too short. Item 4: a stage written twice. -/
theorem test_table_power_broken : ([
    [.wr .powerStage 0x1F 0x80, .dly 5, .wr .powerStage 0x1F 0x88, .dly 5, .wr .powerStage 0x1F 0x90, .dly 5,
      .wr .powerStage 0x1F 0xD0, .dly 5],
    [.wr .powerStage 0x1F 0x88, .dly 5, .wr .powerStage 0x1F 0x80, .dly 5, .wr .powerStage 0x1F 0xD0, .dly 5],
    [.wr .powerStage 0x1F 0x88, .dly 4, .wr .powerStage 0x1F 0x80, .dly 5, .wr .powerStage 0x1F 0x90, .dly 5,
      .wr .powerStage 0x1F 0xD0, .dly 5],
    defaultPowerSteps ++ [.wr .other 0x1F 0xD0, .dly 5]] : List (List InitStep)).all
    (fun stages => !initTableLegal (leastTable stages (onSteps 50 5))) = true := by decide

/-- Item 3: each delay 1 ms too short, a step between the window and the first display-on write, one after the end, the
window left out, and a colour mode that is not 65K. -/
theorem test_table_ending_broken : ([onSteps 49 5, onSteps 50 4, onSteps 50 5 ++ [.dly 1],
    (onSteps 50 5).take 3 ++ .wr .other 0x40 0 :: (onSteps 50 5).drop 3, (onSteps 50 5).eraseIdx 2,
    .wr .other 0x17 0x06 :: (onSteps 50 5).drop 1] : List (List InitStep)).all
    (fun on => !initTableLegal (leastTable defaultPowerSteps on)) = true := by decide

/-- Item 2: no wake before the power stages. -/
theorem test_table_early_phase_missing :
    initTableLegal ((leastTable defaultPowerSteps (onSteps 50 5)).eraseIdx 3) = false := by decide

/-! ### The tables of sections 2.2 and 2.9 -/

theorem test_prefix_bytes : ([0, 1, 2, 3] : List (BitVec 2)).map (fun d =>
    (rsp { defaultConfig with deviceId := d }, dsp { defaultConfig with deviceId := d })) =
    [(0x70, 0x72), (0x74, 0x76), (0x78, 0x7A), (0x7C, 0x7E)] := by decide

theorem test_touch_commands : ([.z1, .z2] : List Channel).map (fun c => touchCmd { defaultConfig with touchPd := 3 } c .bits8) =
    [0xBB, 0xCB] ∧ ([.x, .y] : List Channel).map (fun c => touchCmd { defaultConfig with touchPd := 3 } c .bits12) =
    [0xD3, 0x93] := by decide

theorem test_pressure : ([(0x00, 0xFF), (0x01, 0xFF), (0x00, 0xFE), (0x81, 0xFE), (0x80, 0xFF), (0x7F, 0x00),
    (0x40, 0xC0), (0x60, 0xDF), (0x50, 0x10), (0xFF, 0xFF), (0x64, 0xC8)] : List (Byte × Byte)).map
    (fun p => (pressure p.1 p.2).toNat) = [0, 1, 1, 2, 0, 126, 127, 0, 63, 127, 27] := by decide

theorem test_raw_sample : ([(0x7F, 0xF8), (0xFF, 0xFF), (0x80, 0x00), (0x3E, 0x80), (0x00, 0x08), (0x00, 0x07)] :
    List (Byte × Byte)).map (fun p => (rawSample p.1 p.2).toNat) = [4095, 4095, 0, 2000, 1, 0] := by decide

theorem test_map : ([0, 169, 170, 171, 1992, 3815, 3816, 4095] : List Int).map (fun v => calMap v 170 3815 0 239) =
    [-12, -1, 0, 0, 119, 239, 239, 257] := by decide

theorem test_transform_screen : ([0, 1, 2, 3] : List (BitVec 2)).map (fun c =>
    (transformX defaultConfig c 1000 3000, transformY defaultConfig c 1000 3000)) =
    [(54, 243), (80, 48), (191, 72), (247, 188)] := by decide

theorem test_transform_raw : ([0, 1, 2, 3] : List (BitVec 2)).map (fun c =>
    (transformX { defaultConfig with calBinding := .raw } c 1000 3000,
      transformY { defaultConfig with calBinding := .raw } c 1000 3000)) =
    [(54, 243), (72, 54), (191, 72), (243, 191)] := by decide

theorem test_negative_coordinates : coordWord (transformX defaultConfig 0 100 100) = 0xFFFFFFFB ∧
    coordWord (transformY defaultConfig 0 100 100) = 0xFFFFFFEF := by decide

/-! ### Witnesses: every statement with hypotheses can have them all met, clause by clause at the ends of its ranges -/

theorem waits_accepted (ws : List Word) (s : State) : HostWaits (accepted ws s) := by
  intro op h
  obtain rfl : HostOp.awaitIdle = op := by simpa [accepted, acceptedWith] using h
  rfl

theorem idle_ready : BusIdle ready := ⟨rfl, rfl, rfl, rfl⟩
theorem idle_configuring : BusIdle configuring := ⟨rfl, rfl, rfl, rfl⟩
theorem idle_reset : BusIdle State.reset := ⟨rfl, rfl, rfl, rfl⟩
theorem open_streaming : StreamOpen streaming := ⟨rfl, rfl, rfl, rfl, rfl⟩
theorem legal_default : configLegal defaultConfig = true := by decide
theorem long_enough_default : WaitsLongEnough defaultConfig := Nat.le_refl 1

theorem inv_accepted_ready : BlockInv (accepted [0x01000000] ready) where
  bus := .inl ⟨rfl, rfl, rfl, rfl⟩
  notResetting := by decide
  armed := fun _ => ⟨rfl, rfl⟩
  noBusFailure := by decide
  sticky := by decide
  collector := .inr (.inr (.inr ⟨rfl, rfl, .inl ⟨0x01000000, by decide, rfl⟩⟩))
  noContactZero := fun _ => ⟨rfl, rfl, rfl, rfl⟩
  resetReleased := rfl
  timerIdle := rfl
  clockLow := rfl

theorem test_witness_StepRunsAcceptedCommand :
    configLegal (accepted [0x01000000] State.reset).cfg = true ∧ Running .reset (accepted [0x01000000] State.reset) :=
  ⟨legal_default, rfl, waits_accepted _ _, by decide⟩

theorem no_row_unknown_opcode : ∀ row ∈ opcodeMap, row.covers 0x0B000000 = false := by decide
theorem no_row_reserved_bit : ∀ row ∈ opcodeMap, row.covers 0x03010000 = false := by decide

theorem test_witness_IllegalWordCompletes : ∀ w ∈ ([0x0B000000, 0x03010000] : List Word),
    configLegal (accepted [w] ready).cfg = true ∧ (accepted [w] ready).busy = true ∧ HostWaits (accepted [w] ready) ∧
      (accepted [w] ready).cbuf = [w] ∧ ∀ row ∈ opcodeMap, row.covers w = false := by
  intro w hw
  refine ⟨legal_default, rfl, waits_accepted _ _, rfl, ?_⟩
  simp only [List.mem_cons, List.not_mem_nil, or_false] at hw
  rcases hw with rfl | rfl
  · exact no_row_unknown_opcode
  · exact no_row_reserved_bit

/-- The default table with its last delay 1 ms too short (rule R199, item 3). -/
def lastDelayTooShort : List InitStep :=
  defaultTrimSteps ++ defaultPowerSteps ++ [.wr .colourMode65k 0x17 0x05, .wr .panelCharacteristic 0x36 0x00, .win,
    .wr .displayEnable 0x28 0x38, .dly 50, .wr .displayFullEnable 0x28 0x3C, .dly 4]

theorem lastDelayTooShort_breaks : ¬ InitTableRules lastDelayTooShort := by
  rintro ⟨_, _, _, _, _, _, _, _, _, _, _, _, _, _, _, _, _, _, _, _, _, _, ht, ⟨-, -, -, -, -, hlast⟩, -⟩
  have hend := congrArg List.getLast? ht
  rw [List.getLast?_append] at hend
  simp [lastDelayTooShort] at hend
  omega

theorem test_witness_BrokenConfigurationRefused :
    (∃ s : State, s.cfg.xMax = s.cfg.xMin) ∧ (∃ s : State, s.cfg.yMax = s.cfg.yMin) ∧
    (∃ s : State, s.cfg.dispSpeedHz = s.cfg.touchSpeedHz) ∧ (∃ s : State, s.cfg.touchSpeedHz = 0) ∧
    (∃ s : State, s.cfg.ticksPerMs = 0) ∧ (∃ s : State, s.cfg.initOrientation = 91) ∧
    (∃ s : State, s.cfg.hostBase = 63) ∧ ∃ s : State, ¬ InitTableRules s.cfg.initTable :=
  ⟨⟨{ ready with cfg := { defaultConfig with xMax := 170 } }, rfl⟩,
   ⟨{ ready with cfg := { defaultConfig with yMax := 286 } }, rfl⟩,
   ⟨{ ready with cfg := { defaultConfig with dispSpeedHz := 1 } }, rfl⟩,
   ⟨{ ready with cfg := { defaultConfig with touchSpeedHz := 0 } }, rfl⟩,
   ⟨{ ready with cfg := { defaultConfig with ticksPerMs := 0 } }, rfl⟩,
   ⟨{ ready with cfg := { defaultConfig with initOrientation := 91 } }, rfl⟩,
   ⟨{ ready with cfg := { defaultConfig with hostBase := 63 } }, rfl⟩,
   ⟨{ ready with cfg := { defaultConfig with initTable := lastDelayTooShort } }, lastDelayTooShort_breaks⟩⟩

theorem test_witness_IdleBlockRunsNothing : configLegal ready.cfg = true ∧ ready.busy = false ∧ ready.hostOps = [] :=
  ⟨legal_default, rfl, rfl⟩

/-- PENDING 0 with either kind of word, 2 and 1. -/
theorem test_witness_CommandWordsCollected : ∀ p ∈ ([0, 1, 2] : List (BitVec 2)),
    ∀ w ∈ ([0x05000000, 0x04FFFFFF, 0x05000001] : List Word),
    let s := hosting (.write 0 4 w) { ready with pend := p }
    configLegal s.cfg = true ∧ s.busy = false ∧ s.hostOps = .write 0 4 w :: [] ∧ s.pend = p := by
  intro p _ w _
  exact ⟨legal_default, rfl, rfl, rfl⟩

theorem test_witness_BusyHoldsCommandWrite :
    let s := hosting (.write 0 4 0x02000000) { ready with busy := true, cbuf := [0x01000000] }
    configLegal s.cfg = true ∧ s.busy = true ∧ s.hostOps = .write 0 4 0x02000000 :: [] ∧
      decode s.cbuf = .ok .reset ∧ ∃ t, step s = .next t :=
  ⟨legal_default, rfl, rfl, by decide, _, rfl⟩

/-- Two widths, a misaligned offset, the first offset outside. -/
theorem test_witness_OtherAccessesStuck : ∀ a ∈ ([(0, 2), (4, 8), (2, 4), (64, 4)] : List (Nat × Nat)),
    (a.2 ≠ 4 ∨ a.1 % 4 ≠ 0 ∨ 64 ≤ a.1) ∧ configLegal (hosting (.read a.1 a.2) ready).cfg = true ∧
      (hosting (.read a.1 a.2) ready).hostOps = .read a.1 a.2 :: [] ∧
      (hosting (.write a.1 a.2 0) ready).hostOps = .write a.1 a.2 0 :: [] := by
  intro a h
  refine ⟨?_, legal_default, rfl, rfl⟩
  revert h a
  decide

/-- The first and the last offset of each clause. -/
theorem test_witness_ReservedAndReadOnlyOffsets :
    (∀ off ∈ ([0x04, 0x3C] : List Nat), off % 4 = 0 ∧ off < 64 ∧ 0 < off ∧
      configLegal (hosting (.write off 4 1) ready).cfg = true ∧
      (hosting (.write off 4 1) ready).hostOps = .write off 4 1 :: []) ∧
    ∀ off ∈ ([0x20, 0x3C] : List Nat), off % 4 = 0 ∧ off < 64 ∧ 0x20 ≤ off ∧
      configLegal (hosting (.read off 4) ready).cfg = true ∧
      (hosting (.read off 4) ready).hostOps = .read off 4 :: [] := by
  simp [hosting, ready, State.reset, State.resetWith, legal_default]

theorem test_witness_IdleReadReturnsRegister : ∀ off ∈ ([0x00, 0x04, 0x1C, 0x3C] : List Nat),
    configLegal (hosting (.read off 4) ready).cfg = true ∧ (hosting (.read off 4) ready).busy = false ∧ off % 4 = 0 ∧
      off < 64 ∧ (hosting (.read off 4) ready).hostOps = .read off 4 :: [] := by
  simp [hosting, ready, State.reset, State.resetWith, legal_default]

/-- STATUS during a RESET and during a CONFIG, GEOMETRY during a RESET, touch registers during a TPOLL, and the first and
last offset that reads 0. -/
theorem test_witness_BusyReadAdmitsOnlyNamedValues :
    ∀ c ∈ ([(0x04, 0x01000000), (0x04, 0x02000000), (0x08, 0x01000000), (0x0C, 0x0A000000), (0x1C, 0x0A000000),
      (0x00, 0x01000000), (0x3C, 0x01000000)] : List (Nat × Word)),
    let s := hosting (.read c.1 4) { configuring with busy := true, cbuf := [c.2] }
    configLegal s.cfg = true ∧ s.busy = true ∧ c.1 % 4 = 0 ∧ c.1 < 64 ∧ s.hostOps = .read c.1 4 :: [] := by
  intro c h
  refine ⟨legal_default, rfl, ?_, ?_, rfl⟩ <;> (revert h c; decide)

/-- A RESET accepted whose waits would be one tick too short, and block reset after it. -/
def tooFast : State := hosting (.blockReset 3)
  { ready with busy := true, cbuf := [0x01000000], cfg := { defaultConfig with trueTicksPerMs := 2 } }

theorem tooFast_stops : runCommand tooFast = .fault .waitTooShort := rfl

/-- Block reset with nothing running, three events into a RESET, and with a RESET that cannot complete. -/
theorem test_witness_BlockResetActsAtOnce :
    (configLegal (hosting (.blockReset 0) ready).cfg = true ∧ (hosting (.blockReset 0) ready).busy = false ∧
      (hosting (.blockReset 0) ready).hostOps = .blockReset 0 :: []) ∧
    let s := hosting (.blockReset 3) { ready with busy := true, cbuf := [0x01000000] }
    (configLegal s.cfg = true ∧ s.hostOps = .blockReset 3 :: [] ∧ s.busy = true ∧ ∃ t, runCommand s = .next t) ∧
    configLegal tooFast.cfg = true ∧ tooFast.hostOps = .blockReset 3 :: [] ∧ tooFast.busy = true ∧
      ∀ t, runCommand tooFast ≠ .next t :=
  ⟨⟨legal_default, rfl, rfl⟩, ⟨legal_default, rfl, rfl, _, rfl⟩, by decide, rfl, rfl, by simp [tooFast_stops]⟩

theorem test_witness_ResetCommandFromIdle : BusIdle State.reset ∧ WaitsLongEnough State.reset.cfg :=
  ⟨idle_reset, long_enough_default⟩

theorem test_witness_ResetCommandCutsStream : StreamOpen streaming ∧ WaitsLongEnough streaming.cfg :=
  ⟨open_streaming, long_enough_default⟩

/-- A timer one tick too fast, with no stream and with one. -/
theorem test_witness_ResetTooFastStops :
    (BusIdle { ready with cfg := { defaultConfig with trueTicksPerMs := 2 } } ∧ (1 : Nat) < 2) ∧
      StreamOpen { streaming with cfg := { defaultConfig with trueTicksPerMs := 2 } } ∧
      ({ defaultConfig with trueTicksPerMs := 2 } : Config).ticksPerMs <
        ({ defaultConfig with trueTicksPerMs := 2 } : Config).trueTicksPerMs :=
  ⟨⟨⟨rfl, rfl, rfl, rfl⟩, by decide⟩, ⟨rfl, rfl, rfl, rfl, rfl⟩, by decide⟩

theorem test_witness_ConfigRunsInitTable : BusIdle configuring ∧ configuring.ctl = .configuring ∧
    WaitsLongEnough configuring.cfg ∧ configuring.timer = 0 := ⟨idle_configuring, rfl, long_enough_default, rfl⟩

/-- The smallest and the largest orientation code. -/
theorem test_witness_ConfigRunsDefaultTable : ∀ o ∈ ([0, 3] : List (BitVec 2)),
    BusIdle { configuring with orient := o } ∧ ({ configuring with orient := o } : State).ctl = .configuring ∧
      ({ configuring with orient := o } : State).cfg = defaultConfig := fun _ _ => ⟨idle_configuring, rfl, rfl⟩

theorem test_witness_SetoriWritesOrientation : ((270 : Half), (3 : BitVec 2), (0x68 : Byte), (320 : Half), (240 : Half)) ∈
    [((0 : Half), (0 : BitVec 2), (0x08 : Byte), (240 : Half), (320 : Half)),
      (90, 1, 0xA8, 320, 240), (180, 2, 0xC8, 240, 320), (270, 3, 0x68, 320, 240)] ∧ BusIdle ready ∧ ready.ctl = .ready :=
  ⟨by decide, idle_ready, rfl⟩

/-- The invalid degrees of L1-2. -/
theorem test_witness_SetoriRejectsOtherDegrees : (∀ d ∈ ([1, 45, 89, 91, 360, 65535] : List Half),
    d ∉ ([0, 90, 180, 270] : List Half)) ∧ ready.stream = false ∧ ready.ctl = .ready := by
  refine ⟨by simp, rfl, rfl⟩

theorem test_witness_WrregWritesOneRegister : (BusIdle configuring ∧ configuring.ctl = .configuring) ∧
    BusIdle ready ∧ ready.ctl = .ready := ⟨⟨idle_configuring, rfl⟩, idle_ready, rfl⟩

theorem test_witness_SetwinSendsEightWrites : BusIdle ready ∧ ready.ctl = .ready := ⟨idle_ready, rfl⟩

theorem test_witness_BeginOpensStream : BusIdle ready ∧ ready.ctl = .ready ∧ ready.winArmed = true :=
  ⟨idle_ready, rfl, rfl⟩

theorem test_witness_PixelStreamsHighByteFirst : StreamOpen streaming := open_streaming
theorem test_witness_ByteStreamsItsByte : StreamOpen streaming := open_streaming
theorem test_witness_EndClosesStream : StreamOpen streaming := open_streaming
theorem test_witness_TwoBytesStreamLikeOnePixel : StreamOpen streaming := open_streaming
theorem test_witness_RenderStreamsAllPixels : BusIdle ready ∧ ready.ctl = .ready ∧ configLegal ready.cfg = true ∧
    ready.busy = false ∧ ready.pend = 0 := ⟨idle_ready, rfl, legal_default, rfl, rfl⟩

theorem test_witness_StreamRefusesOtherCommands : streaming.stream = true ∧ (Instr.tpoll ≠ .reset) ∧
    Instr.tpoll ≠ .endStream ∧ (∀ p, Instr.tpoll ≠ .pixel p) ∧ ∀ b, Instr.tpoll ≠ .byte b := by
  refine ⟨rfl, ?_, ?_, ?_, ?_⟩ <;> simp

theorem test_witness_LegalExactlyWhenOneRowMatches :
    decode (0x05000000 :: [0x00000000, 0xFFFFFFFF]) = .ok (.setwin 0 0 0xFFFF 0xFFFF) ∧
      (⟨"SETWIN", 3, 0x05000000, 0xFFFFFFFF⟩ : OpcodeRow) ∈ opcodeMap ∧
      (⟨"SETWIN", 3, 0x05000000, 0xFFFFFFFF⟩ : OpcodeRow).covers 0x05000000 = true := by decide

theorem test_witness_ResetLeavesRuleValues : orientCode? 0 = some 0 ∧ ((0 : Half).toNat = defaultConfig.initOrientation) ∧
    orientCode? 270 = some 3 ∧ ((270 : Half).toNat = ({ defaultConfig with initOrientation := 270 } : Config).initOrientation) := by
  decide

/-- One state for each cause; a RESET and a TPOLL that complete. -/
theorem test_witness_WrongStateCauses : (ready.stream = false ∧ ready.ctl ≠ .configuring) ∧
    (State.reset.stream = false ∧ State.reset.ctl = .unpowered) ∧
    (configuring.stream = false ∧ configuring.ctl ≠ .ready) ∧
    (({ ready with winArmed := false } : State).stream = false ∧ ({ ready with winArmed := false } : State).winArmed = false) ∧
    (∃ t, exec .reset ready = .next t) ∧ ∃ t, exec .tpoll ready = .next t := by
  refine ⟨by decide, by decide, by decide, by decide, ⟨_, rfl⟩, _, rfl⟩

theorem test_witness_ErrorsArePrecise : ∃ t, exec .config ready = .next t ∧ t.result ≠ .ok := ⟨_, rfl, by decide⟩
theorem test_witness_CompletionStepAlwaysDone : (∃ t, exec .tpoll ready = .next t) ∧ ∃ t, exec .endStream ready = .next t :=
  ⟨⟨_, rfl⟩, _, rfl⟩

/-- The pressure just below the threshold. -/
theorem test_witness_PollWithoutContact :
    let s := { ready with miso := [0, 0x01, 0, 0xFF] }
    BusIdle s ∧ (pollPressure s).toNat + 1 = s.cfg.minPressure.toNat :=
  ⟨⟨rfl, rfl, rfl, rfl⟩, by decide⟩

/-- The pressure at the threshold. -/
theorem test_witness_PollWithContact :
    let s := { ready with miso := [0, 0x02, 0, 0xFF] }
    BusIdle s ∧ s.cfg.minPressure.toNat = (pollPressure s).toNat :=
  ⟨⟨rfl, rfl, rfl, rfl⟩, by decide⟩

theorem test_witness_DiscardedBytesDoNotMatter :
    (∃ t, exec .tpoll { ready with miso := pollScript (fun _ => 0) 0x40 0xC0 0x3E 0x80 0x3E 0x80 ++ [] } = .next t) ∧
      ∃ t, exec .tpoll { ready with miso := pollScript (fun _ => 0xFF) 0x40 0xC0 0x3E 0x80 0x3E 0x80 ++ [] } = .next t :=
  ⟨⟨_, rfl⟩, _, rfl⟩

theorem test_witness_TransformTable : defaultConfig.calBinding = .screen ∧
    ({ defaultConfig with calBinding := .raw } : Config).calBinding = .raw := by decide

/-- The narrowest input range, and the default one. -/
theorem test_witness_MapIsExactFloor : (0 : Int) < 1 ∧ (170 : Int) < 3815 := by decide

/-- An output range of one value, one as wide as the input range, and one a step wider, which the last clause leaves
out. -/
theorem test_witness_MapEndpointsMonotoneMidpoint : ((0 : Int) < 239 ∧ (0 : Int) ≤ 0 ∧ (0 : Int) - 0 ≤ 239 - 0) ∧
    ((0 : Int) < 239 ∧ (0 : Int) ≤ 239 ∧ (239 : Int) - 0 ≤ 239 - 0) ∧ ¬ ((240 : Int) - 0 ≤ 239 - 0) := by decide

/-- The range that shows rule R233's words to fail (assumption log 14), and one of one value. -/
theorem test_witness_MapMidpointAtAnyRange : ((0 : Int) < 1 ∧ (0 : Int) ≤ 239) ∧ (0 : Int) ≤ 0 := by decide

theorem test_witness_CoordinatesFitWithoutOverflow : defaultConfig.xMin.toNat < defaultConfig.xMax.toNat ∧
    defaultConfig.yMin.toNat < defaultConfig.yMax.toNat := by decide

theorem test_witness_StepKeepsBlockInv : BlockInv (accepted [0x01000000] ready) ∧
    ∃ t, step (accepted [0x01000000] ready) = .next t := ⟨inv_accepted_ready, _, rfl⟩

theorem test_witness_BlockInvGivesBusRules : BlockInv (accepted [0x01000000] ready) ∧
    (streaming.csLcdN = false ∧ streaming.stream = true) ∧ ready.busy = false ∧ ready.stream = false :=
  ⟨inv_accepted_ready, by decide⟩

theorem test_witness_StepKeepsWireDiscipline : BlockInv (accepted [0x01000000] ready) ∧
    WireDiscipline (accepted [0x01000000] ready) ∧ ∃ t, step (accepted [0x01000000] ready) = .next t :=
  ⟨inv_accepted_ready, ⟨rfl, by simp [accepted, acceptedWith, ready, State.reset, State.resetWith]⟩, _, rfl⟩

theorem test_witness_NoStepReachesModelDefect : BlockInv (accepted [0x01000000] ready) := inv_accepted_ready

theorem test_witness_EveryStepGoesOn : BlockInv (accepted [0x01000000] ready) ∧
    configLegal (accepted [0x01000000] ready).cfg = true ∧ WaitsLongEnough (accepted [0x01000000] ready).cfg ∧
    NextAccessAdmitted (accepted [0x01000000] ready) ∧ (accepted [0x01000000] ready).busy = true ∧
    HostWaits (accepted [0x01000000] ready) := by
  refine ⟨inv_accepted_ready, legal_default, long_enough_default, ?_, rfl, waits_accepted _ _⟩
  intro op h
  obtain rfl : HostOp.awaitIdle = op := by simpa [accepted, acceptedWith] using h
  trivial

theorem test_witness_CommandsOnlyAppendEvents : ∃ t, exec (.wrreg 0x17 0x05) ready = .next t := ⟨_, rfl⟩

/-- A RESET leaves READY, a CONFIG reaches it. -/
theorem test_witness_ReadyLeftByResetsOnly :
    (ready.ctl = .ready ∧ ∃ t, step (accepted [0x01000000] ready) = .next t ∧ t.ctl ≠ .ready) ∧
      configuring.ctl ≠ .ready ∧ ∃ t, step (accepted [0x02000000] configuring) = .next t ∧ t.ctl = .ready :=
  ⟨⟨rfl, _, rfl, by decide⟩, by decide, _, rfl, rfl⟩

theorem test_witness_OrientationWriters :
    ∃ t, step (accepted [0x0300005A] ready) = .next t ∧ t.orient ≠ (accepted [0x0300005A] ready).orient :=
  ⟨_, rfl, by decide⟩

theorem test_witness_WindowArmedOnlyByWindowWrites :
    (∃ t, step (accepted [0x02000000] configuring) = .next t ∧ (accepted [0x02000000] configuring).winArmed = false ∧
      t.winArmed = true) ∧ ∃ t, exec .beginStream ready = .next t ∧ t.result = .ok :=
  ⟨⟨_, rfl, rfl, rfl⟩, _, rfl, rfl⟩

theorem test_witness_TouchRegistersWrittenByPollOnly :
    ∃ t, step (accepted [0x0A000000] { ready with miso := contactScript }) = .next t ∧
      ¬ SameTouch (accepted [0x0A000000] { ready with miso := contactScript }) t := by
  refine ⟨_, rfl, fun h => ?_⟩
  exact absurd h.1 (by decide)

theorem test_witness_StickyFlagAndParametersStay :
    ∃ t, step (hosting (.blockReset 0) { ready with errSticky := true }) = .next t ∧
      (hosting (.blockReset 0) { ready with errSticky := true }).errSticky = true ∧ t.errSticky = false :=
  ⟨_, rfl, rfl, rfl⟩

theorem test_witness_BootReachesReady : WaitsLongEnough defaultConfig ∧ configLegal defaultConfig = true ∧ orientCode? 0 = some 0 ∧
    orientCode? 90 = some 1 ∧ orientCode? 180 = some 2 ∧ orientCode? 270 = some 3 := by
  refine ⟨long_enough_default, legal_default, ?_⟩
  decide

end Sys2Proof.Tests
end

section
/-! SUPPORT. The family of the scope rules: a configuration that breaks a constraint is refused (rules R5, R60, R199),
and block reset leaves the values of the reset table (rule R52). -/

namespace Sys2Proof.Machine

/-! ### Power writes in an init table (rule R199, items 1 and 4) -/

/-- No step writes the power-stage register. -/
def PowerFree (l : List InitStep) : Prop := ∀ step ∈ l, isPowerWrite step = false

@[simp] theorem powerFree_nil : PowerFree [] := by simp [PowerFree]

@[simp] theorem powerFree_cons (step : InitStep) (rest : List InitStep) :
    PowerFree (step :: rest) ↔ isPowerWrite step = false ∧ PowerFree rest := by simp [PowerFree]

@[simp] theorem powerFree_append (l l' : List InitStep) : PowerFree (l ++ l') ↔ PowerFree l ∧ PowerFree l' :=
  List.forall_mem_append

@[simp] theorem isPowerWrite_wr (p : InitPhase) (a v : Byte) : isPowerWrite (.wr p a v) = (a == 0x1F) := rfl
@[simp] theorem isPowerWrite_dly (n : Nat) : isPowerWrite (.dly n) = false := rfl
@[simp] theorem isPowerWrite_win : isPowerWrite .win = false := rfl

theorem isPowerWrite_iff (step : InitStep) : isPowerWrite step = true ↔ ∃ p v, step = .wr p 0x1F v := by
  cases step <;> simp [isPowerWrite]

theorem powerValues_cons_power (p : InitPhase) (v : Byte) (rest : List InitStep) :
    powerValues (.wr p 0x1F v :: rest) = v :: powerValues rest := rfl

theorem powerValues_cons_other (step : InitStep) (rest : List InitStep) (h : isPowerWrite step = false) :
    powerValues (step :: rest) = powerValues rest := by
  cases step with
  | wr p a v => simp_all [isPowerWrite, powerValues]
  | dly n => rfl
  | win => rfl

/-- A table that writes no value to register 0x1F has no power write. -/
theorem powerFree_of_powerValues_nil (t : List InitStep) (h : powerValues t = []) : PowerFree t := by
  induction t with
  | nil => exact powerFree_nil
  | cons step rest ih =>
    cases hp : isPowerWrite step with
    | false =>
      rw [powerValues_cons_other step rest hp] at h
      exact (powerFree_cons step rest).2 ⟨hp, ih h⟩
    | true =>
      obtain ⟨p, v, rfl⟩ := (isPowerWrite_iff step).1 hp
      rw [powerValues_cons_power] at h
      cases h

theorem startsWithDelay_iff (n : Nat) (t : List InitStep) :
    startsWithDelay n t = true ↔ ∃ m rest, t = .dly m :: rest ∧ n ≤ m := by
  unfold startsWithDelay
  split <;> simp_all

/-- A settled table is cut at its first power write: the steps before it, the write, its settle delay, and a settled
table that writes the remaining values (rule R199, item 1). -/
theorem split_at_power_stage (t : List InitStep) (v : Byte) (vs : List Byte) (hv : powerValues t = v :: vs)
    (hs : powerSettled t = true) :
    ∃ gap p n rest, t = gap ++ [.wr p 0x1F v, .dly n] ++ rest ∧ PowerFree gap ∧ 5 ≤ n ∧ powerValues rest = vs ∧
      powerSettled rest = true := by
  induction t with
  | nil => cases hv
  | cons step tail ih =>
    obtain ⟨hdelay, htail⟩ : (!isPowerWrite step || startsWithDelay 5 tail) = true ∧ powerSettled tail = true := by
      simpa [powerSettled] using hs
    cases hp : isPowerWrite step with
    | false =>
      rw [powerValues_cons_other step tail hp] at hv
      obtain ⟨gap, p, n, rest, rfl, hgap, hn, hrest, hsettled⟩ := ih hv htail
      exact ⟨step :: gap, p, n, rest, rfl, (powerFree_cons step gap).2 ⟨hp, hgap⟩, hn, hrest, hsettled⟩
    | true =>
      obtain ⟨p, w, rfl⟩ := (isPowerWrite_iff step).1 hp
      rw [hp] at hdelay
      obtain ⟨n, rest, rfl, hn⟩ := (startsWithDelay_iff 5 tail).1 hdelay
      rw [powerValues_cons_power, powerValues_cons_other _ rest (isPowerWrite_dly n)] at hv
      obtain ⟨rfl, hvals⟩ := List.cons.inj hv
      have hsettled : powerSettled rest = true := by simpa [powerSettled] using htail
      exact ⟨[], p, n, rest, rfl, powerFree_nil, hn, hvals, hsettled⟩

/-- The four power stages of a settled table, in order, with what stands before, between and after them (rule R199,
items 1 and 4). -/
theorem split_at_power_stages (t : List InitStep) (hv : powerValues t = [0x88, 0x80, 0x90, 0xD0])
    (hs : powerSettled t = true) :
    ∃ before gap1 gap2 gap3 ending p1 p2 p3 p4 n1 n2 n3 n4,
      t = before ++ [.wr p1 0x1F 0x88, .dly n1] ++ gap1 ++ [.wr p2 0x1F 0x80, .dly n2] ++ gap2 ++
        [.wr p3 0x1F 0x90, .dly n3] ++ gap3 ++ [.wr p4 0x1F 0xD0, .dly n4] ++ ending ∧
      (5 ≤ n1 ∧ 5 ≤ n2 ∧ 5 ≤ n3 ∧ 5 ≤ n4) ∧ PowerFree (before ++ gap1 ++ gap2 ++ gap3) ∧ PowerFree ending := by
  obtain ⟨before, p1, n1, t1, rfl, hbefore, hn1, hv1, hs1⟩ := split_at_power_stage t _ _ hv hs
  obtain ⟨gap1, p2, n2, t2, rfl, hgap1, hn2, hv2, hs2⟩ := split_at_power_stage t1 _ _ hv1 hs1
  obtain ⟨gap2, p3, n3, t3, rfl, hgap2, hn3, hv3, hs3⟩ := split_at_power_stage t2 _ _ hv2 hs2
  obtain ⟨gap3, p4, n4, ending, rfl, hgap3, hn4, hv4, -⟩ := split_at_power_stage t3 _ _ hv3 hs3
  have hgaps : PowerFree (before ++ gap1 ++ gap2 ++ gap3) := by simp [hbefore, hgap1, hgap2, hgap3]
  exact ⟨before, gap1, gap2, gap3, ending, p1, p2, p3, p4, n1, n2, n3, n4, by simp only [List.append_assoc],
    ⟨hn1, hn2, hn3, hn4⟩, hgaps, powerFree_of_powerValues_nil ending hv4⟩

/-- The steps before the first power write, where a table is cut at it. -/
theorem beforePower_append (before rest : List InitStep) (p : InitPhase) (v : Byte) (h : PowerFree before) :
    beforePower (before ++ .wr p 0x1F v :: rest) = before := by
  have hkept : ∀ step ∈ before, (!isPowerWrite step) = true := fun step hstep => by simp [h step hstep]
  rw [beforePower, List.takeWhile_append_of_pos hkept, List.takeWhile_cons_of_neg (by simp), List.append_nil]

/-- The steps after the last power write and its delay, where a table is cut at it. -/
theorem afterPower_append (front ending : List InitStep) (p : InitPhase) (v : Byte) (n : Nat) (h : PowerFree ending) :
    afterPower (front ++ [.wr p 0x1F v, .dly n] ++ ending) = ending := by
  have hkept : ∀ step ∈ ending.reverse ++ [.dly n], (!isPowerWrite step) = true := by
    simpa [PowerFree, or_imp, forall_and] using h
  have hrev : (front ++ [InitStep.wr p 0x1F v, InitStep.dly n] ++ ending).reverse =
      (ending.reverse ++ [InitStep.dly n]) ++ InitStep.wr p 0x1F v :: front.reverse := by simp
  rw [afterPower, hrev, List.takeWhile_append_of_pos hkept, List.takeWhile_cons_of_neg (by simp)]
  simp

/-! ### The table's ending and its early phases (rule R199, items 2 and 3) -/

theorem endsDisplayOn_iff (l : List InitStep) :
    endsDisplayOn l = true ↔ ∃ aColour vColour aPanel vPanel aEnable vEnable aFull vFull mEnable mFull,
      l = [.wr .colourMode65k aColour vColour, .wr .panelCharacteristic aPanel vPanel, .win,
        .wr .displayEnable aEnable vEnable, .dly mEnable, .wr .displayFullEnable aFull vFull, .dly mFull] ∧
      50 ≤ mEnable ∧ 5 ≤ mFull := by
  constructor
  · intro h
    unfold endsDisplayOn at h
    split at h
    · exact ⟨_, _, _, _, _, _, _, _, _, _, rfl, by simpa using h⟩
    · cases h
  · rintro ⟨aColour, vColour, aPanel, vPanel, aEnable, vEnable, aFull, vFull, mEnable, mFull, rfl, hEnable, hFull⟩
    simp [endsDisplayOn, hEnable, hFull]

theorem isWriteOf_iff (phase : InitPhase) (step : InitStep) :
    isWriteOf phase step = true ↔ ∃ a v, step = .wr phase a v := by
  cases step <;> simp [isWriteOf]

/-- The check of item 2. -/
theorem any_isWriteOf_iff (phase : InitPhase) (l : List InitStep) :
    l.any (isWriteOf phase) = true ↔ ∃ a v, .wr phase a v ∈ l := by
  simp only [List.any_eq_true, isWriteOf_iff]
  constructor
  · rintro ⟨_, hmem, a, v, rfl⟩
    exact ⟨a, v, hmem⟩
  · rintro ⟨a, v, hmem⟩
    exact ⟨_, hmem, a, v, rfl⟩

/-- One `WIN` in the whole table, and one at its end: none before. -/
theorem win_not_mem_of_length_one (front ending : List InitStep) (hend : (ending.filter isWin).length = 1)
    (h : ((front ++ ending).filter isWin).length = 1) : InitStep.win ∉ front := by
  intro hmem
  have hwin : InitStep.win ∈ front.filter isWin := List.mem_filter.2 ⟨hmem, rfl⟩
  have hpos := List.length_pos_of_mem hwin
  rw [List.filter_append, List.length_append] at h
  omega

theorem not_wr_power_of_powerFree (l : List InitStep) (h : PowerFree l) (step : InitStep) (hstep : step ∈ l)
    (p : InitPhase) (v : Byte) : step ≠ .wr p 0x1F v := by
  rintro rfl
  cases h _ hstep

theorem initTableLegal_iff (t : List InitStep) :
    initTableLegal t = true ↔ powerValues t = [0x88, 0x80, 0x90, 0xD0] ∧ powerSettled t = true ∧
      (∀ phase ∈ earlyPhases, (beforePower t).any (isWriteOf phase) = true) ∧ endsDisplayOn (afterPower t) = true ∧
      (t.filter isWin).length = 1 := by
  simp only [initTableLegal, Bool.and_eq_true, decide_eq_true_eq, List.all_eq_true, and_assoc]

/-- A table that passes the check obeys rule R199: it is cut at the four power writes, and the cuts are the table's parts
in the rule. -/
theorem initTableRules_of_legal (t : List InitStep) (h : initTableLegal t = true) : InitTableRules t := by
  obtain ⟨hvalues, hsettled, hearly, hending, hwin⟩ := (initTableLegal_iff t).1 h
  obtain ⟨before, gap1, gap2, gap3, ending, p1, p2, p3, p4, n1, n2, n3, n4, rfl, ⟨hn1, hn2, hn3, hn4⟩, hgaps, hfree⟩ :=
    split_at_power_stages t hvalues hsettled
  rw [afterPower_append _ ending p4 0xD0 n4 hfree] at hending
  obtain ⟨aColour, vColour, aPanel, vPanel, aEnable, vEnable, aFull, vFull, mEnable, mFull, rfl, hEnable, hFull⟩ :=
    (endsDisplayOn_iff ending).1 hending
  have hnoWin := win_not_mem_of_length_one _ _ rfl hwin
  have hbefore : PowerFree before := fun step hstep => hgaps step (by simp [hstep])
  have hphases : ∀ phase ∈ earlyPhases, ∃ a v, .wr phase a v ∈ before := fun phase hphase => by
    have hany := hearly phase hphase
    simp only [List.append_assoc, List.cons_append] at hany
    rw [beforePower_append before _ p1 0x88 hbefore] at hany
    exact (any_isWriteOf_iff phase before).1 hany
  refine ⟨before, gap1, gap2, gap3, p1, p2, p3, p4, n1, n2, n3, n4, mEnable, mFull, aColour, vColour, aPanel, vPanel,
    aEnable, vEnable, aFull, vFull, rfl, ⟨hn1, hn2, hn3, hn4, hEnable, hFull⟩, hphases, fun step hstep => ⟨?_, ?_⟩, ?_⟩
  · rintro rfl
    exact hnoWin (by simpa [or_assoc] using hstep)
  · exact not_wr_power_of_powerFree _ hgaps step hstep
  · simpa using hfree

/-! ### The constraints on the parameters -/

theorem configLegal_iff (c : Config) :
    configLegal c = true ↔ c.xMin.toNat < c.xMax.toNat ∧ c.yMin.toNat < c.yMax.toNat ∧ 0 < c.touchSpeedHz ∧
      c.touchSpeedHz < c.dispSpeedHz ∧ c.initOrientation ∈ [0, 90, 180, 270] ∧ 1 ≤ c.ticksPerMs ∧
      c.hostBase % 64 = 0 ∧ initTableLegal c.initTable = true := by
  simp [configLegal, and_assoc, or_assoc]

theorem step_of_not_configLegal (s : State) (h : ¬ configLegal s.cfg = true) :
    step s = .refused .configurationRefused := if_neg h

/-- Settles O3: each broken constraint contradicts its conjunct of `configLegal`. -/
theorem brokenConfigurationRefused : Obligations.BrokenConfigurationRefused := by
  intro s hbroken
  refine step_of_not_configLegal s fun hlegal => ?_
  obtain ⟨hx, hy, htouch, hspeeds, horient, hticks, hbase, htable⟩ := (configLegal_iff s.cfg).1 hlegal
  rcases hbroken with hb | hb | hb | hb | hb | hb | hb | hb
  · exact Nat.not_lt.2 hb hx
  · exact Nat.not_lt.2 hb hy
  · exact Nat.not_lt.2 hb hspeeds
  · exact htouch.ne' hb
  · exact Nat.ne_of_gt hticks hb
  · exact hb horient
  · exact hb hbase
  · exact hb (initTableRules_of_legal _ htable)

/-! ### Block reset -/

theorem orientCode?_eq_some (deg : Half) (code : BitVec 2) (h : orientCode? deg = some code) :
    code = BitVec.ofNat 2 (deg.toNat / 90) := by
  unfold orientCode? at h
  split_ifs at h with h0 h90 h180 h270
  all_goals
    subst deg
    cases h
    rfl

/-- `INIT_ORIENTATION`'s code is that of its degrees (rule R211). -/
theorem initOrientCode_eq (c : Config) (deg : Half) (code : BitVec 2) (hdeg : deg.toNat = c.initOrientation)
    (h : orientCode? deg = some code) : initOrientCode c = code := by
  rw [initOrientCode, ← hdeg, orientCode?_eq_some deg code h]

/-- Settles O17: the orientation is the code of `INIT_ORIENTATION`, every other element is written in `resetWith`. -/
theorem resetLeavesRuleValues : Obligations.ResetLeavesRuleValues := by
  refine ⟨?_, rfl, by decide, by decide, by decide⟩
  rintro c s rfl
  simp only [State.resetWith, true_and, and_true]
  exact initOrientCode_eq c

end Sys2Proof.Machine
end

section
/-! SUPPORT. The family of the state rules, first part: what a step can do to the whole state, and what the effect of a
command leaves as it was (rules R22, R77, R78, R261, R262). -/

namespace Sys2Proof.Machine

/-! ### What a step can do -/

/-- `s` with another view of the host's: the operations to come, the reads recorded, the reads during BUSY counted. -/
def State.withHostView (ops : List HostOp) (log : List HostRead) (n : Nat) (s : State) : State :=
  { s with hostOps := ops, readLog := log, busyReads := n }

/-- What a step from `s` to `t` has done (`step_kind` says that there is nothing else). -/
inductive StepKind (s t : State) : Prop where
  /-- The accepted command did its effect and completed OK. -/
  | ran (i : Instr) (u : State) (running : Running i s) (effect : Effect i s u) (after : t = complete .ok u)
  /-- The accepted command, or the illegal word0, ended with an error (rules R261, R264). -/
  | raised (code : Result) (busy : s.busy = true) (notOk : code ≠ .ok) (produced : code ≠ .busTransactionFailure)
    (after : t = complete code s)
  /-- A word was collected at CMD (rule R91). -/
  | collected (w : Word) (idle : s.busy = false) (after : collect w s.dropHostOp = .ok t)
  /-- The host read, wrote where nothing is written, waited, or did nothing. -/
  | looked (ops : List HostOp) (log : List HostRead) (n : Nat) (after : t = s.withHostView ops log n)
  /-- Block reset, which cuts a running command short (rule R290). -/
  | wasReset (k : Nat) (next : BlockResetNext s)
    (after : t = blockReset (if s.busy then abandonAfter k (completionOf s).trace s.dropHostOp else s.dropHostOp))

theorem runCommand_kind (s t : State) (hb : s.busy = true) (hw : HostWaits s) (h : runCommand s = .next t) :
    StepKind s t := by
  rcases runCommand_eq_next s t h with ⟨i, hd, he⟩ | ⟨-, rfl⟩
  · rcases exec_cases i s t he with ⟨code, hc, hp, rfl⟩ | ⟨u, hu, rfl⟩
    · exact .raised code hb hc hp rfl
    · exact .ran i u ⟨hb, hw, hd⟩ hu rfl
  · exact .raised _ hb (by decide) (by decide) rfl

theorem hostMove_kind (op : HostOp) (rest : List HostOp) (s t : State) (ho : s.hostOps = op :: rest)
    (hb : (s.busy && holdsBack op) = false) (h : hostMove op (completionOf s).dropHostOp s.dropHostOp = .ok t) :
    StepKind s t := by
  rcases hostMove_eq_ok _ _ _ _ h with ⟨bytes, w, rfl, ha, hc⟩ | ⟨off, bytes, w, rfl, -, -, rfl⟩ |
    ⟨off, bytes, rfl, -, rfl⟩ | ⟨rfl, rfl⟩ | ⟨k, rfl, rfl⟩
  · exact .collected w (by simpa [holdsBack, ha] using hb) hc
  · exact .looked _ s.readLog s.busyReads rfl
  · exact .looked _ _ _ rfl
  · exact .looked _ s.readLog s.busyReads rfl
  · exact .wasReset k ⟨k, rest, ho⟩ rfl

/-- Every step is of one of the five kinds. -/
theorem step_kind (s t : State) (h : step s = .next t) : StepKind s t := by
  obtain ⟨-, ⟨hb, hw, hr⟩ | ⟨op, rest, ho, hb, hm⟩ | ⟨-, -, hidle⟩⟩ := step_cases s t h
  · exact runCommand_kind s t hb hw hr
  · exact hostMove_kind op rest s t ho hb hm
  · exact .looked s.hostOps s.readLog s.busyReads hidle

/-! ### What a command's effect leaves as it was -/

/-- The fields that no command's effect changes, and the trace, which it only appends to. -/
structure EffectFrame (s u : State) : Prop where
  cfg : u.cfg = s.cfg
  busy : u.busy = s.busy
  pend : u.pend = s.pend
  cbuf : u.cbuf = s.cbuf
  result : u.result = s.result
  errSticky : u.errSticky = s.errSticky
  hostOps : u.hostOps = s.hostOps
  readLog : u.readLog = s.readLog
  busyReads : u.busyReads = s.busyReads
  epochs : u.epochs = s.epochs
  trace : s.trace <+: u.trace

theorem EffectFrame.trans {s u v : State} (h : EffectFrame s u) (g : EffectFrame u v) : EffectFrame s v where
  cfg := g.cfg.trans h.cfg
  busy := g.busy.trans h.busy
  pend := g.pend.trans h.pend
  cbuf := g.cbuf.trans h.cbuf
  result := g.result.trans h.result
  errSticky := g.errSticky.trans h.errSticky
  hostOps := g.hostOps.trans h.hostOps
  readLog := g.readLog.trans h.readLog
  busyReads := g.busyReads.trans h.busyReads
  epochs := g.epochs.trans h.epochs
  trace := h.trace.trans g.trace

/-- A state that differs only where a command's effect may write, events appended to its trace. -/
theorem frame_of_append (s u : State) (es : List Event)
    (h : u = { s with
      ctl := u.ctl, stream := u.stream, owner := u.owner, speed := u.speed, orient := u.orient
      winArmed := u.winArmed, tValid := u.tValid, tX := u.tX, tY := u.tY, tZ1 := u.tZ1, tZ2 := u.tZ2
      tPress := u.tPress, tXraw := u.tXraw, tYraw := u.tYraw, csLcdN := u.csLcdN, csTpN := u.csTpN, rstN := u.rstN
      sclk := u.sclk, mosi := u.mosi, timer := u.timer, trace := s.trace ++ es, miso := u.miso
      misoDraws := u.misoDraws }) : EffectFrame s u := by
  rw [h]
  exact ⟨rfl, rfl, rfl, rfl, rfl, rfl, rfl, rfl, rfl, rfl, List.prefix_append _ _⟩

theorem shifted_frame (s : State) (e : Event) : EffectFrame s (s.shifted e) := by
  constructor <;> simp

theorem xfer_frame (o : Byte) (s t : State) (h : xfer o s = .ok t) : EffectFrame s t := by
  obtain ⟨e, rfl | rfl⟩ := xfer_cases o s t h
  · exact shifted_frame s e
  · constructor <;> simp

theorem effect_frame (i : Instr) (s u : State) (h : Effect i s u) : EffectFrame s u := by
  cases i with
  | reset =>
    obtain ⟨-, ⟨-, -, rfl⟩ | ⟨-, -, -, rfl⟩⟩ := h
    · exact frame_of_append s _ _ rfl
    · exact frame_of_append s _ _ rfl
  | config =>
    obtain ⟨-, -, -, c, m, n, -, -, rfl⟩ := h
    exact frame_of_append s _ _ rfl
  | setori deg =>
    obtain ⟨-, -, -, o, -, rfl⟩ := h
    exact frame_of_append s _ _ rfl
  | wrreg a v =>
    obtain ⟨-, -, -, rfl⟩ := h
    exact frame_of_append s _ _ rfl
  | setwin x0 y0 x1 y1 =>
    obtain ⟨-, -, -, c, m, -, rfl⟩ := h
    exact frame_of_append s _ _ rfl
  | beginStream =>
    obtain ⟨-, -, -, -, rfl⟩ := h
    exact frame_of_append s _ _ rfl
  | pixel p =>
    obtain ⟨-, v, hv, hu⟩ := h
    exact (xfer_frame _ s v hv).trans (xfer_frame _ v u hu)
  | byte b => exact xfer_frame b s u h.2
  | endStream =>
    obtain ⟨-, -, -, rfl⟩ := h
    exact frame_of_append s _ _ rfl
  | tpoll =>
    obtain ⟨-, -, m, rfl⟩ := h
    split
    · exact frame_of_append s _ _ rfl
    · exact frame_of_append s _ _ rfl

end Sys2Proof.Machine
end

section
/-! SUPPORT. The family of the state rules, second part: the invariant of the block (rules R25, R30, R36 to R38, R44,
R91, R132, R192, R262, R269, R277). -/

namespace Sys2Proof.Machine

/-- The part of `BlockInv` that a command's effect can touch; the completion step does not. -/
structure EffectInv (s : State) : Prop where
  bus : BusIdle s ∨ (StreamOpen s ∧ s.ctl = .ready)
  notResetting : s.ctl ≠ .resetting
  armed : s.winArmed = true → s.ctl = .ready ∧ s.stream = false
  noContactZero : s.tValid = false → s.tX = 0 ∧ s.tY = 0 ∧ s.tXraw = 0 ∧ s.tYraw = 0
  resetReleased : s.rstN = true
  timerIdle : s.timer = 0
  clockLow : s.sclk = false

theorem BlockInv.effectInv {s : State} (h : BlockInv s) : EffectInv s where
  bus := h.bus
  notResetting := h.notResetting
  armed := h.armed
  noContactZero := h.noContactZero
  resetReleased := h.resetReleased
  timerIdle := h.timerIdle
  clockLow := h.clockLow

/-- While a command runs no operand word is expected (rule R91). -/
theorem pend_of_busy {s : State} (h : BlockInv s) (hb : s.busy = true) : s.pend = 0 := by
  rcases h.collector with ⟨hn, -⟩ | ⟨hn, -⟩ | ⟨hn, -⟩ | ⟨-, hp, -⟩
  · simp [hb] at hn
  · simp [hb] at hn
  · simp [hb] at hn
  · exact hp

/-- The completion step (rule R262), whatever its code. -/
theorem complete_blockInv (code : Result) (u : State) (h : EffectInv u) (hp : u.pend = 0)
    (hc : code ≠ .busTransactionFailure) : BlockInv (complete code u) where
  bus := h.bus
  notResetting := h.notResetting
  armed := h.armed
  noBusFailure := hc
  sticky := fun hne => by simpa using Or.inr hne
  collector := .inl ⟨rfl, hp, rfl⟩
  noContactZero := h.noContactZero
  resetReleased := h.resetReleased
  timerIdle := h.timerIdle
  clockLow := h.clockLow

/-! ### The effects of the commands -/

/-- A command that needs an open stream finds the whole of `StreamOpen`. -/
theorem streamOpen_of_stream {s : State} (h : EffectInv s) (hs : s.stream = true) : StreamOpen s := by
  rcases h.bus with ⟨hn, -⟩ | ⟨ho, -⟩
  · simp [hs] at hn
  · exact ho

/-- An open stream takes one more byte and stays open (rules R170, R175). -/
theorem stream_xfer_effectInv (o : Byte) (s t : State) (h : EffectInv s) (hs : s.stream = true)
    (hx : xfer o s = .ok t) : EffectInv t ∧ t.stream = true := by
  rw [xfer_stream o s (streamOpen_of_stream h hs)] at hx
  cases hx
  exact ⟨{ h with clockLow := rfl }, hs⟩

/-- RESET's effect, the speed being what it may (rule R190). -/
theorem afterReset_effectInv (s : State) (es : List Event) (v : Speed) (h : EffectInv s) (ht : s.csTpN = true) :
    EffectInv { s.afterReset es with speed := v } :=
  { h with
    bus := .inl ⟨rfl, rfl, rfl, ht⟩
    notResetting := by simp [State.afterReset]
    armed := by simp [State.afterReset]
    resetReleased := rfl
    timerIdle := rfl }

theorem effect_keeps_effectInv (i : Instr) (s u : State) (h : EffectInv s) (he : Effect i s u) : EffectInv u := by
  cases i with
  | reset =>
    obtain ⟨-, ⟨-, hf, rfl⟩ | ⟨-, -, ht, rfl⟩⟩ := he
    · exact afterReset_effectInv s _ .disp h hf.2.2
    · exact afterReset_effectInv s _ s.speed h ht
  | config =>
    obtain ⟨hs, -, hf, c, m, n, hn, hc, rfl⟩ := he
    exact { h with
      bus := .inl ⟨hs, hf⟩
      notResetting := by simp [State.afterConfig]
      armed := fun _ => ⟨rfl, hs⟩
      timerIdle := hn.elim (fun hn => hn.trans h.timerIdle) id
      clockLow := hc.elim (fun hc => hc.trans h.clockLow) id }
  | setori deg =>
    obtain ⟨hs, -, hf, o, -, rfl⟩ := he
    exact { h with bus := .inl ⟨hs, hf⟩, armed := by simp, clockLow := rfl }
  | wrreg a v =>
    obtain ⟨hs, -, hf, rfl⟩ := he
    exact { h with bus := .inl ⟨hs, hf⟩, clockLow := rfl }
  | setwin x0 y0 x1 y1 =>
    obtain ⟨hs, hr, hf, c, m, hc, rfl⟩ := he
    exact { h with
      bus := .inl ⟨hs, hf⟩
      armed := fun _ => ⟨hr, hs⟩
      clockLow := hc.elim (fun hc => hc.trans h.clockLow) id }
  | beginStream =>
    obtain ⟨-, hr, -, ⟨-, -, ht⟩, rfl⟩ := he
    exact { h with
      bus := .inr ⟨⟨rfl, rfl, rfl, ht, rfl⟩, hr⟩
      armed := by simp
      clockLow := rfl }
  | pixel p =>
    obtain ⟨hs, v, hv, hu⟩ := he
    obtain ⟨hvInv, hvs⟩ := stream_xfer_effectInv _ s v h hs hv
    exact (stream_xfer_effectInv _ v u hvInv hvs hu).1
  | byte b => exact (stream_xfer_effectInv b s u h he.1 he.2).1
  | endStream =>
    obtain ⟨-, -, ht, rfl⟩ := he
    exact { h with
      bus := .inl ⟨rfl, rfl, rfl, ht⟩
      armed := fun ha => ⟨(h.armed ha).1, rfl⟩ }
  | tpoll =>
    obtain ⟨hs, hf, m, rfl⟩ := he
    split
    · exact { h with
        bus := .inl ⟨hs, hf⟩
        noContactZero := fun _ => ⟨rfl, rfl, rfl, rfl⟩
        clockLow := rfl }
    · exact { h with
        bus := .inl ⟨hs, hf⟩
        noContactZero := by simp [State.afterContact]
        clockLow := rfl }

/-! ### The moves of the host and of the reset input -/

/-- The collector gathers one whole command or one illegal word0 (rules R25, R91). -/
theorem collect_collectorSound (w : Word) (s t : State) (h : CollectorSound s) (hb : s.busy = false)
    (hc : collect w s = .ok t) : CollectorSound t := by
  rw [collect_eq_ok] at hc
  rcases h with ⟨-, hp, hw⟩ | ⟨-, hp, hw⟩ | ⟨-, hp, v, hw⟩ | ⟨hn, -⟩
  · obtain ⟨rfl, rfl⟩ | ⟨hne, rfl⟩ : (w = setwinWord0 ∧ t = _) ∨ (w ≠ setwinWord0 ∧ t = _) := by
      simpa [hp] using hc
    · exact .inr (.inl ⟨hb, rfl, rfl⟩)
    · exact .inr (.inr (.inr ⟨rfl, rfl, .inl ⟨w, hne, rfl⟩⟩))
  · obtain rfl : t = _ := by simpa [hp] using hc
    exact .inr (.inr (.inl ⟨hb, rfl, w, by simp [hw]⟩))
  · obtain rfl : t = _ := by simpa [hp] using hc
    exact .inr (.inr (.inr ⟨rfl, rfl, .inr ⟨v, w, by simp [hw]⟩⟩))
  · simp [hb] at hn

/-- Collecting a word changes the collector and BUSY alone (rule R91). -/
theorem collect_only_collector (w : Word) (s t : State) (h : collect w s = .ok t) :
    t = { s with cbuf := t.cbuf, pend := t.pend, busy := t.busy } := by
  rcases (collect_eq_ok w s t).mp h with ⟨-, -, rfl⟩ | ⟨-, -, rfl⟩ | ⟨-, rfl⟩ | ⟨-, rfl⟩ <;> rfl

theorem collect_blockInv (w : Word) (s t : State) (h : BlockInv s) (hb : s.busy = false)
    (hc : collect w s = .ok t) : BlockInv t := by
  have hsound := collect_collectorSound w s t h.collector hb hc
  rw [collect_only_collector w s t hc] at hsound ⊢
  exact { h with collector := hsound }

/-- What the host has still to do and has read has no part in the invariant. -/
theorem withHostView_blockInv (ops : List HostOp) (log : List HostRead) (n : Nat) (s : State) (h : BlockInv s) :
    BlockInv (s.withHostView ops log n) := { h with }

theorem dropHostOp_blockInv (s : State) (h : BlockInv s) : BlockInv s.dropHostOp := { h with }

/-- The reset values meet the invariant, whatever the parameters (rule R52). -/
theorem resetWith_blockInv (c : Config) : BlockInv (State.resetWith c) where
  bus := .inl ⟨rfl, rfl, rfl, rfl⟩
  notResetting := by simp [State.resetWith]
  armed := by simp [State.resetWith]
  noBusFailure := by simp [State.resetWith]
  sticky := by simp [State.resetWith]
  collector := .inl ⟨rfl, rfl, rfl⟩
  noContactZero := fun _ => ⟨rfl, rfl, rfl, rfl⟩
  resetReleased := rfl
  timerIdle := rfl
  clockLow := rfl

/-- Block reset establishes the invariant from any state at all (rule R290). -/
theorem blockReset_blockInv (s : State) : BlockInv (blockReset s) := { resetWith_blockInv s.cfg with }

/-- Settles O49, by the kinds of step: a command's effect keeps `EffectInv` and the completion step does the rest; the
host moves the collector only; block reset starts anew. -/
theorem stepKeepsBlockInv : Obligations.StepKeepsBlockInv := by
  intro s t h hstep
  cases step_kind s t hstep with
  | ran i u hrun heffect hafter =>
    have hframe := effect_frame i s u heffect
    have hpend : u.pend = 0 := hframe.pend.trans (pend_of_busy h hrun.1)
    exact hafter ▸ complete_blockInv .ok u (effect_keeps_effectInv i s u h.effectInv heffect) hpend (by decide)
  | raised code hbusy hok hproduced hafter =>
    exact hafter ▸ complete_blockInv code s h.effectInv (pend_of_busy h hbusy) hproduced
  | collected w hidle hafter => exact collect_blockInv w s.dropHostOp t (dropHostOp_blockInv s h) hidle hafter
  | looked ops log n hafter => exact hafter ▸ withHostView_blockInv ops log n s h
  | wasReset k hnext hafter => exact hafter ▸ blockReset_blockInv _

/-! ### At reset, and the bus rules as they are written -/

/-- Settles O50: `BusIdle` gives the rules where no stream is open, `StreamOpen` where one is. -/
theorem blockInvGivesBusRules : Obligations.BlockInvGivesBusRules := by
  intro s h
  rcases h.bus with ⟨hs, ho, hl, ht⟩ | ⟨⟨hs, ho, hl, ht, hv⟩, hr⟩
  · simp [hs, ho, hl, ht]
  · simp [hs, ho, hl, ht, hv, hr]

/-- Nothing has been on the wire yet: the trace is empty and the pins are as the monitor starts. -/
theorem resetWith_wireDiscipline (c : Config) : WireDiscipline (State.resetWith c) :=
  ⟨rfl, fun _ hended => by cases hended⟩

/-- Settles O48: for the default parameters, as for any others. -/
theorem resetMeetsInvariants : Obligations.ResetMeetsInvariants :=
  ⟨resetWith_blockInv defaultConfig, resetWith_wireDiscipline defaultConfig⟩

end Sys2Proof.Machine
end

section
/-! SUPPORT. The family of the state rules, third part: the discipline of the wire (rules R36, R37, R130, R143, R191,
R290, R300, R302, R303). -/

namespace Sys2Proof.Machine

/-- The monitor's view of the wire in a state between two steps, when it owes no wait. -/
def State.wire (s : State) : WireMonitor := ⟨s.speed, s.csLcdN, s.csTpN, s.rstN, 0⟩

/-- From `s` to `u` events were appended that the monitor allows, and it ends with the wire as `u` says. -/
def AllowedBetween (s u : State) : Prop := ∃ es, u.trace = s.trace ++ es ∧ s.wire.run es = some u.wire

theorem allowedBetween_refl (s : State) : AllowedBetween s s := ⟨[], by simp, rfl⟩

theorem AllowedBetween.trans {s u v : State} (h : AllowedBetween s u) (g : AllowedBetween u v) :
    AllowedBetween s v := by
  obtain ⟨es, hu, hes⟩ := h
  obtain ⟨fs, hv, hfs⟩ := g
  refine ⟨es ++ fs, by rw [hv, hu, List.append_assoc], ?_⟩
  rw [run_append, hes]
  exact hfs

theorem AllowedBetween.discipline {s u : State} (h : AllowedBetween s u) (hd : WireDiscipline s)
    (he : u.epochs = s.epochs) : WireDiscipline u := by
  obtain ⟨es, hu, hes⟩ := h
  exact discipline_append s u es hd hu he hes

/-! ### The effects of the commands -/

/-- With nothing selected and the reset line released the monitor is quiet. -/
theorem wire_quiet (s : State) (hl : s.csLcdN = true) (ht : s.csTpN = true) (hr : s.rstN = true) :
    s.wire = WireMonitor.quiet s.speed := by
  simp [State.wire, WireMonitor.quiet, hl, ht, hr]

theorem wire_of_streamOpen (s : State) (h : EffectInv s) (ho : StreamOpen s) :
    s.wire = ⟨.disp, false, true, true, 0⟩ := by
  obtain ⟨-, -, hl, ht, hv⟩ := ho
  simp [State.wire, hl, ht, hv, h.resetReleased]

/-- What a command that finds the bus free does on the wire is judged from the quiet monitor on. -/
theorem allowed_from_free (s u : State) (es : List Event) (h : EffectInv s) (hf : BusFree s)
    (htrace : u.trace = s.trace ++ es) (hes : (WireMonitor.quiet s.speed).run es = some u.wire) :
    AllowedBetween s u := by
  obtain ⟨-, hl, ht⟩ := hf
  exact ⟨es, htrace, by rwa [wire_quiet s hl ht h.resetReleased]⟩

/-- A display command that acquires and releases the bus, the pins as it found them: its brackets must be allowed at
the display's speed. -/
theorem displayCommand_allowed (s u : State) (es : List Event) (h : EffectInv s) (hf : BusFree s)
    (htrace : u.trace = s.trace ++ .speed .disp :: es) (hwire : u.wire = { s.wire with speed := .disp })
    (hes : (WireMonitor.quiet .disp).run es = some (WireMonitor.quiet .disp)) : AllowedBetween s u := by
  refine allowed_from_free s u _ h hf htrace ?_
  obtain ⟨-, hl, ht⟩ := hf
  rw [run_speed, hes, hwire, wire_quiet s hl ht h.resetReleased]
  rfl

/-- A byte of an open stream goes to the display, selected at its speed. -/
theorem stream_xfer_allowed (o : Byte) (s t : State) (h : EffectInv s) (hs : s.stream = true)
    (hx : xfer o s = .ok t) : AllowedBetween s t := by
  have ho := streamOpen_of_stream h hs
  rw [xfer_stream o s ho] at hx
  cases hx
  refine ⟨[.xfer .lcd o none], rfl, ?_⟩
  change s.wire.run _ = some s.wire
  rw [wire_of_streamOpen s h ho]
  rfl

/-- BEGIN leaves the display selected (rule R160). -/
theorem run_begin (c : Config) (v : Speed) :
    (WireMonitor.quiet v).run (beginEvents c) = some ⟨.disp, false, true, true, 0⟩ := rfl

theorem effect_allowed (i : Instr) (s u : State) (h : EffectInv s) (he : Effect i s u) : AllowedBetween s u := by
  cases i with
  | reset =>
    obtain ⟨-, ⟨-, hf, rfl⟩ | ⟨hs, -, -, rfl⟩⟩ := he
    · refine allowed_from_free s _ _ h hf rfl ?_
      have hafter := wire_quiet { s.afterReset (.speed .disp :: resetPulseEvents) with speed := .disp } rfl hf.2.2 rfl
      exact (run_resetPulse .disp true).trans (congrArg some hafter.symm)
    · obtain ⟨-, -, -, ht, hv⟩ := streamOpen_of_stream h hs
      refine ⟨resetPulseEvents, rfl, ?_⟩
      rw [wire_quiet (s.afterReset _) rfl ht rfl, State.wire, ht, h.resetReleased]
      exact run_resetPulse s.speed s.csLcdN
  | config =>
    obtain ⟨-, -, hf, c, m, n, -, -, rfl⟩ := he
    exact displayCommand_allowed s _ _ h hf rfl rfl
      (by simpa [WireMonitor.run] using run_initTable s.cfg s.orient s.cfg.initTable [])
  | setori deg =>
    obtain ⟨-, -, hf, o, -, rfl⟩ := he
    exact displayCommand_allowed s _ _ h hf rfl rfl (run_regWrite s.cfg s.cfg.orientReg (orientValue o) [])
  | wrreg a v =>
    obtain ⟨-, -, hf, rfl⟩ := he
    exact displayCommand_allowed s _ _ h hf rfl rfl (run_regWrite s.cfg a v [])
  | setwin x0 y0 x1 y1 =>
    obtain ⟨-, -, hf, c, m, -, rfl⟩ := he
    exact displayCommand_allowed s _ _ h hf rfl rfl
      (run_regWrites s.cfg (windowWrites s.cfg.winReg x0 y0 x1 y1) [])
  | beginStream =>
    obtain ⟨-, -, -, hf, rfl⟩ := he
    refine allowed_from_free s _ _ h hf rfl ?_
    obtain ⟨-, -, ht⟩ := hf
    rw [State.wire, ht, h.resetReleased]
    exact run_begin s.cfg s.speed
  | pixel p =>
    obtain ⟨hs, v, hv, hu⟩ := he
    obtain ⟨hvInv, hvs⟩ := stream_xfer_effectInv _ s v h hs hv
    exact (stream_xfer_allowed _ s v h hs hv).trans (stream_xfer_allowed _ v u hvInv hvs hu)
  | byte b => exact stream_xfer_allowed b s u h he.1 he.2
  | endStream =>
    obtain ⟨-, -, -, rfl⟩ := he
    exact ⟨[.cs .lcd true], rfl, rfl⟩
  | tpoll =>
    obtain ⟨-, hf, m, rfl⟩ := he
    have ⟨_, hl, ht⟩ := hf
    split
    · refine allowed_from_free s _ (probeEvents s) h hf rfl ?_
      rw [wire_quiet (s.afterNoContact m) hl ht h.resetReleased]
      exact run_probe s s.speed []
    · refine allowed_from_free s _ (probeEvents s ++ axisEvents s) h hf rfl ?_
      rw [wire_quiet (s.afterContact m) hl ht h.resetReleased, run_probe]
      exact run_axes s []

/-! ### The running command, and block reset in its middle -/

/-- A command that answers a next state puts only allowed events on the wire. -/
theorem runCommand_allowed (s t : State) (h : BlockInv s) (hr : runCommand s = .next t) : AllowedBetween s t := by
  rcases runCommand_eq_next s t hr with ⟨i, -, he⟩ | ⟨-, rfl⟩
  · rcases exec_cases i s t he with ⟨code, -, -, rfl⟩ | ⟨u, hu, rfl⟩
    · exact allowedBetween_refl s
    · exact effect_allowed i s u h.effectInv hu
  · exact allowedBetween_refl s

theorem completionOf_allowed (s : State) (h : BlockInv s) : AllowedBetween s (completionOf s) := by
  unfold completionOf
  split
  · exact runCommand_allowed s _ h ‹_›
  · exact allowedBetween_refl s

/-- The events of a command cut short are a first part of the whole command's (rules R274, R290). -/
theorem abandonAfter_allowed (k : Nat) (s t : State) (hd : WireDiscipline s) (h : AllowedBetween s t) :
    (WireMonitor.start.run (abandonAfter k t.trace s).trace).isSome = true := by
  obtain ⟨es, ht, hes⟩ := h
  have hcut : (abandonAfter k t.trace s).trace = s.trace ++ es.take k := by simp [abandonAfter, ht]
  have hwhole : (WireMonitor.start.run ((s.trace ++ es.take k) ++ es.drop k)).isSome = true := by
    rw [List.append_assoc, List.take_append_drop, run_append, hd.1]
    exact Option.isSome_iff_exists.mpr ⟨_, hes⟩
  exact hcut ▸ run_prefix _ _ _ hwhole

/-- Block reset ends an epoch whose trace is allowed, and begins one with an empty trace (rule R290). -/
theorem blockReset_discipline (s : State) (hended : (WireMonitor.start.run s.trace).isSome = true)
    (hepochs : ∀ ended ∈ s.epochs, (WireMonitor.start.run ended).isSome = true) : WireDiscipline (blockReset s) := by
  refine ⟨rfl, fun ended hmem => ?_⟩
  rcases List.mem_append.mp hmem with hmem | hmem
  · exact hepochs ended hmem
  · rwa [List.mem_singleton.mp hmem]

/-- Settles O51, by the kinds of step: a command's events are allowed, the host has no part in the wire, and block reset
ends an allowed trace, cut or whole. -/
theorem stepKeepsWireDiscipline : Obligations.StepKeepsWireDiscipline := by
  intro s t h hd hstep
  cases step_kind s t hstep with
  | ran i u hrun heffect hafter =>
    have hu := (effect_allowed i s u h.effectInv heffect).discipline hd (effect_frame i s u heffect).epochs
    exact hafter ▸ hu
  | raised code hbusy hok hproduced hafter => exact hafter ▸ hd
  | collected w hidle hafter =>
    rw [collect_only_collector w _ t hafter]
    exact hd
  | looked ops log n hafter => exact hafter ▸ hd
  | wasReset k hnext hafter =>
    rw [hafter]
    split
    · exact blockReset_discipline _ (abandonAfter_allowed k s _ hd (completionOf_allowed s h)) hd.2
    · exact blockReset_discipline _ (Option.isSome_iff_exists.mpr ⟨_, hd.1⟩) hd.2

end Sys2Proof.Machine
end

section
/-! SUPPORT. The family of the state rules, fourth part: which step writes which element of the state (rules R29, R30,
R32, R34, R35, R50, R211, R262, R304). -/

namespace Sys2Proof.Machine

/-! ### Who writes the elements that only commands and block reset write -/

/-- From `s` to `t` only the collector, the result and what the host sees next have changed. -/
def OnlyPortChanged (s t : State) : Prop :=
  t = { s with
    busy := t.busy, pend := t.pend, cbuf := t.cbuf, result := t.result, errSticky := t.errSticky
    hostOps := t.hostOps, readLog := t.readLog, busyReads := t.busyReads }

/-- A step that changes more than the port is a command's that completes OK, or block reset. -/
theorem step_writers (s t : State) (h : step s = .next t) :
    (∃ i u, Running i s ∧ Effect i s u ∧ t = complete .ok u) ∨
      (BlockResetNext s ∧ ∃ r, t = blockReset r) ∨ OnlyPortChanged s t := by
  cases step_kind s t h with
  | ran i u hrun heffect hafter => exact .inl ⟨i, u, hrun, heffect, hafter⟩
  | raised code hbusy hok hproduced hafter => exact .inr (.inr (hafter ▸ rfl))
  | collected w hidle hafter =>
    have ht := collect_only_collector w _ t hafter
    exact .inr (.inr (by rw [ht]; rfl))
  | looked ops log n hafter => exact .inr (.inr (hafter ▸ rfl))
  | wasReset k hnext hafter => exact .inr (.inl ⟨hnext, _, hafter⟩)

/-- What an effect may do to the orientation, the window's flag and the touch registers (rules R29, R30, R32). -/
structure EffectWriters (i : Instr) (s u : State) : Prop where
  orient : u.orient = s.orient ∨ i = .reset ∨ ∃ deg, i = .setori deg
  armed : u.winArmed = true → s.winArmed = true ∨ i = .config ∨ ∃ x0 y0 x1 y1, i = .setwin x0 y0 x1 y1
  touch : SameTouch s u ∨ i = .tpoll

theorem sameTouch_refl (s : State) : SameTouch s s := ⟨rfl, rfl, rfl, rfl, rfl, rfl, rfl, rfl⟩

/-- A transfer leaves the orientation, the window's flag and the touch registers. -/
theorem xfer_leaves (o : Byte) (s t : State) (h : xfer o s = .ok t) :
    t.orient = s.orient ∧ t.winArmed = s.winArmed ∧ SameTouch s t := by
  obtain ⟨e, rfl | rfl⟩ := xfer_cases o s t h
  · exact ⟨rfl, rfl, sameTouch_refl s⟩
  · simp [SameTouch]

theorem streamPixel_leaves (p : Half) (s v t : State) (hv : xfer (highByte p) s = .ok v)
    (ht : xfer (lowByte p) v = .ok t) : t.orient = s.orient ∧ t.winArmed = s.winArmed ∧ SameTouch s t := by
  obtain ⟨hvo, hvw, hvt⟩ := xfer_leaves _ s v hv
  obtain ⟨hto, htw, htt⟩ := xfer_leaves _ v t ht
  refine ⟨hto.trans hvo, htw.trans hvw, ?_⟩
  simp only [SameTouch] at hvt htt ⊢
  simp [hvt, htt]

theorem effect_writers (i : Instr) (s u : State) (h : Effect i s u) : EffectWriters i s u := by
  cases i with
  | reset =>
    obtain ⟨-, ⟨-, -, rfl⟩ | ⟨-, -, -, rfl⟩⟩ := h
    · exact ⟨.inr (.inl rfl), fun ha => (Bool.false_ne_true ha).elim, .inl (sameTouch_refl s)⟩
    · exact ⟨.inr (.inl rfl), fun ha => (Bool.false_ne_true ha).elim, .inl (sameTouch_refl s)⟩
  | config =>
    obtain ⟨-, -, -, c, m, n, -, -, rfl⟩ := h
    exact ⟨.inl rfl, fun _ => .inr (.inl rfl), .inl (sameTouch_refl s)⟩
  | setori deg =>
    obtain ⟨-, -, -, o, -, rfl⟩ := h
    exact ⟨.inr (.inr ⟨deg, rfl⟩), fun ha => (Bool.false_ne_true ha).elim, .inl (sameTouch_refl s)⟩
  | wrreg a v =>
    obtain ⟨-, -, -, rfl⟩ := h
    exact ⟨.inl rfl, .inl, .inl (sameTouch_refl s)⟩
  | setwin x0 y0 x1 y1 =>
    obtain ⟨-, -, -, c, m, -, rfl⟩ := h
    exact ⟨.inl rfl, fun _ => .inr (.inr ⟨x0, y0, x1, y1, rfl⟩), .inl (sameTouch_refl s)⟩
  | beginStream =>
    obtain ⟨-, -, -, -, rfl⟩ := h
    exact ⟨.inl rfl, fun ha => (Bool.false_ne_true ha).elim, .inl (sameTouch_refl s)⟩
  | pixel p =>
    obtain ⟨-, v, hv, hu⟩ := h
    obtain ⟨ho, hw, ht⟩ := streamPixel_leaves p s v u hv hu
    exact ⟨.inl ho, fun ha => .inl (hw ▸ ha), .inl ht⟩
  | byte b =>
    obtain ⟨ho, hw, ht⟩ := xfer_leaves b s u h.2
    exact ⟨.inl ho, fun ha => .inl (hw ▸ ha), .inl ht⟩
  | endStream =>
    obtain ⟨-, -, -, rfl⟩ := h
    exact ⟨.inl rfl, .inl, .inl (sameTouch_refl s)⟩
  | tpoll =>
    obtain ⟨-, -, m, rfl⟩ := h
    split
    · exact ⟨.inl rfl, .inl, .inr rfl⟩
    · exact ⟨.inl rfl, .inl, .inr rfl⟩

/-! ### The statements -/

/-- Settles O56: of the commands that complete OK only RESET and SETORI write the orientation. -/
theorem orientationWriters : Obligations.OrientationWriters := by
  intro s t hstep hne
  rcases step_writers s t hstep with ⟨i, u, hrun, heffect, rfl⟩ | ⟨hreset, -⟩ | hport
  · rcases (effect_writers i s u heffect).orient with hsame | rfl | ⟨deg, rfl⟩
    · exact absurd hsame hne
    · exact .inr (.inl hrun)
    · exact .inl ⟨deg, hrun, rfl⟩
  · exact .inr (.inr hreset)
  · rw [hport] at hne
    exact absurd rfl hne

/-- Settles O58: of the commands that complete OK only TPOLL writes the touch registers. -/
theorem touchRegistersWrittenByPollOnly : Obligations.TouchRegistersWrittenByPollOnly := by
  intro s t hstep hne
  rcases step_writers s t hstep with ⟨i, u, hrun, heffect, rfl⟩ | ⟨hreset, -⟩ | hport
  · rcases (effect_writers i s u heffect).touch with hsame | rfl
    · exact absurd hsame hne
    · exact .inl ⟨hrun, rfl⟩
  · exact .inr hreset
  · rw [hport] at hne
    exact absurd (sameTouch_refl s) hne

/-- Settles O57: block reset leaves the window not armed, and of the commands only SETWIN and CONFIG arm it; BEGIN's
effect has the armed window as its guard. -/
theorem windowArmedOnlyByWindowWrites : Obligations.WindowArmedOnlyByWindowWrites := by
  refine ⟨fun s t hstep hbefore hafter => ?_, fun s t hexec hok => ?_⟩
  · rcases step_writers s t hstep with ⟨i, u, hrun, heffect, rfl⟩ | ⟨-, r, rfl⟩ | hport
    · rcases (effect_writers i s u heffect).armed hafter with harmed | rfl | ⟨x0, y0, x1, y1, rfl⟩
      · exact absurd (hbefore.symm.trans harmed) (by decide)
      · exact .inr hrun
      · exact .inl ⟨x0, y0, x1, y1, hrun⟩
    · exact absurd hafter (by simp)
    · rw [hport] at hafter
      exact absurd (hbefore.symm.trans hafter) (by decide)
  · rcases exec_cases _ s t hexec with ⟨code, hcode, -, rfl⟩ | ⟨u, ⟨-, -, harmed, -, rfl⟩, rfl⟩
    · exact absurd hok hcode
    · exact ⟨harmed, rfl⟩

/-- Settles O59: the completion step only sets the sticky flag, and no move writes the parameters. -/
theorem stickyFlagAndParametersStay : Obligations.StickyFlagAndParametersStay := by
  intro s t hstep
  cases step_kind s t hstep with
  | ran i u hrun heffect hafter =>
    have hframe := effect_frame i s u heffect
    subst hafter
    exact ⟨hframe.cfg, fun hset hclear => by simp [hframe.errSticky, hset] at hclear⟩
  | raised code hbusy hok hproduced hafter =>
    subst hafter
    exact ⟨rfl, fun hset hclear => by simp [hset] at hclear⟩
  | collected w hidle hafter =>
    rw [collect_only_collector w _ t hafter]
    exact ⟨rfl, fun hset hclear => absurd (hset.symm.trans hclear) (by decide)⟩
  | looked ops log n hafter =>
    subst hafter
    exact ⟨rfl, fun hset hclear => absurd (hset.symm.trans hclear) (by decide)⟩
  | wasReset k hnext hafter =>
    refine ⟨?_, fun _ _ => hnext⟩
    subst hafter
    split
    · rfl
    · rfl

/-- Settles O54: an error's completion step and an effect's frame both leave the parameters and the host's side. -/
theorem commandsOnlyAppendEvents : Obligations.CommandsOnlyAppendEvents := by
  intro i s t hexec
  rcases exec_cases i s t hexec with ⟨code, -, -, rfl⟩ | ⟨u, heffect, rfl⟩
  · exact ⟨List.prefix_rfl, rfl, rfl, rfl, rfl⟩
  · have hframe := effect_frame i s u heffect
    exact ⟨hframe.trace, hframe.cfg, hframe.hostOps, hframe.readLog, hframe.epochs⟩

end Sys2Proof.Machine
end

section
/-! SUPPORT. The family of the state rules, fifth part: the command port (rules R25, R40, R91, R307), the registers'
fields (rules R40 to R47, R260) and reads during BUSY (rules R48, R72). -/

namespace Sys2Proof.Machine

/-! ### Whose move a step is -/

/-- The command runs if it is accepted and the host's next access does not come before its completion (rule R78). -/
theorem step_of_running (i : Instr) (s : State) (hc : configLegal s.cfg = true) (h : Running i s) :
    step s = exec i s := by
  obtain ⟨hb, hw, hd⟩ := h
  have hmove : nextMove s = .command := by
    unfold HostWaits at hw
    unfold nextMove
    cases ho : s.hostOps with
    | nil => simp [hb]
    | cons op rest => simp [hb, hw op (by simp [ho])]
  simp [step, hc, hmove, runCommand, hd]

/-- The host's access, or block reset, is carried out unless it is one that a running command holds back. -/
theorem step_of_hostOp (op : HostOp) (rest : List HostOp) (s : State) (hc : configLegal s.cfg = true)
    (ho : s.hostOps = op :: rest) (hb : (s.busy && holdsBack op) = false) :
    step s = moveOutcome (hostMove op (completionOf s).dropHostOp s.dropHostOp) := by
  have hmove : nextMove s = .host op := by simp [nextMove, ho, hb]
  simp [step, hc, hmove]

theorem dropHostOp_eq (op : HostOp) (rest : List HostOp) (s : State) (ho : s.hostOps = op :: rest) :
    s.dropHostOp = { s with hostOps := rest } := by simp [State.dropHostOp, ho]

theorem admitted_aligned (off : Nat) (ha : off % 4 = 0) (hw : off < 64) : admitted off 4 = true := by
  simp [admitted, ha, hw]

/-! ### Writes -/

/-- A word at CMD while no command runs goes to the collector. -/
theorem step_write_cmd (w : Word) (rest : List HostOp) (s t : State) (hc : configLegal s.cfg = true)
    (hb : s.busy = false) (ho : s.hostOps = .write 0 4 w :: rest)
    (ht : collect w { s with hostOps := rest } = .ok t) : step s = .next t := by
  rw [step_of_hostOp _ rest s hc ho (by simp [hb]), dropHostOp_eq _ rest s ho]
  simp [hostMove, hostWrite, admitted, ht, moveOutcome]

/-- Settles O10, by the clauses of the collector. -/
theorem commandWordsCollected : Obligations.CommandWordsCollected := by
  intro w rest s hc hb ho
  refine ⟨fun hp hw => ?_, fun hp hw => ?_, fun hp => ?_, fun hp => ?_⟩
  · exact step_write_cmd w rest s _ hc hb ho ((collect_eq_ok _ _ _).mpr (.inl ⟨hp, hw, rfl⟩))
  · exact step_write_cmd w rest s _ hc hb ho ((collect_eq_ok _ _ _).mpr (.inr (.inl ⟨hp, hw, rfl⟩)))
  · exact step_write_cmd w rest s _ hc hb ho ((collect_eq_ok _ _ _).mpr (.inr (.inr (.inr ⟨hp, rfl⟩))))
  · exact step_write_cmd w rest s _ hc hb ho ((collect_eq_ok _ _ _).mpr (.inr (.inr (.inl ⟨hp, rfl⟩))))

/-- A write outside CMD is made at once and changes nothing, also during BUSY (rule R47). -/
theorem step_write_ignored (off : Nat) (v : Word) (rest : List HostOp) (s : State) (hc : configLegal s.cfg = true)
    (ha : off % 4 = 0) (hw : off < 64) (hpos : 0 < off) (ho : s.hostOps = .write off 4 v :: rest) :
    step s = .next { s with hostOps := rest } := by
  rw [step_of_hostOp _ rest s hc ho (by simp [holdsBack, hpos.ne']), dropHostOp_eq _ rest s ho]
  simp [hostMove, hostWrite, admitted_aligned off ha hw, hpos.ne', moveOutcome]

/-- A command that answers a next state leaves BUSY 0 (rule R262). -/
theorem exec_busy (i : Instr) (s t : State) (h : exec i s = .next t) : t.busy = false := by
  rcases exec_cases i s t h with ⟨code, -, -, rfl⟩ | ⟨u, -, rfl⟩
  · rfl
  · rfl

/-- Settles O11: the command runs, and no command touches the host's accesses. -/
theorem busyHoldsCommandWrite : Obligations.BusyHoldsCommandWrite := by
  intro w rest i s t hc hb ho hd hstep
  have hwaits : HostWaits s := by simp [HostWaits, ho, holdsBack, admitted]
  rw [step_of_running i s hc ⟨hb, hwaits, hd⟩] at hstep
  obtain ⟨-, -, hops, -, -⟩ := commandsOnlyAppendEvents i s t hstep
  exact ⟨hstep, hops.trans ho, exec_busy i s t hstep⟩

/-! ### Reads -/

/-- An admitted read is made at once, also during BUSY; only the record of reads grows (rules R48, R73). -/
theorem step_read (off : Nat) (rest : List HostOp) (s : State) (hc : configLegal s.cfg = true) (ha : off % 4 = 0)
    (hw : off < 64) (ho : s.hostOps = .read off 4 :: rest) :
    step s = .next { s with
      hostOps := rest
      readLog := s.readLog ++
        [⟨off, readRegister (readView { s with hostOps := rest } (completionOf s).dropHostOp) off⟩]
      busyReads := if s.busy then s.busyReads + 1 else s.busyReads } := by
  rw [step_of_hostOp _ rest s hc ho (by simp [holdsBack]), dropHostOp_eq _ rest s ho]
  simp [hostMove, hostRead, admitted_aligned off ha hw, moveOutcome]

/-- The reserved offsets read 0 (rule R47). -/
theorem readRegister_reserved (s : State) (off : Nat) (h : 0x20 ≤ off) : readRegister s off = 0 := by
  unfold readRegister
  split
  case h_8 => rfl
  all_goals omega

/-- Settles O13: a write there is ignored, and a read there answers 0 in any view. -/
theorem reservedAndReadOnlyOffsets : Obligations.ReservedAndReadOnlyOffsets := by
  intro off v rest s hc ha hw
  refine ⟨fun hpos ho => step_write_ignored off v rest s hc ha hw hpos ho, fun hres ho => ?_⟩
  refine ⟨if s.busy then s.busyReads + 1 else s.busyReads, ?_⟩
  rw [step_read off rest s hc ha hw ho, readRegister_reserved _ off hres]

/-! ### The registers' fields -/

/-- A slice that lies above the low part. -/
theorem slice_above {n m : Nat} (x : BitVec n) (y : BitVec m) (a k : Nat) (h : m ≤ a) :
    (x ++ y).extractLsb' a k = x.extractLsb' (a - m) k := by
  obtain ⟨b, rfl⟩ := Nat.exists_eq_add_of_le h
  rw [slice_in_high, Nat.add_sub_cancel_left]

theorem slices_of_two {a b : Nat} (x : BitVec a) (y : BitVec b) :
    (x ++ y).extractLsb' 0 b = y ∧ (x ++ y).extractLsb' b a = x :=
  ⟨(slice_in_low x y 0 b (by omega)).trans (slice_all y), slice_high x y rfl⟩

theorem slices_of_three {a b c : Nat} (x : BitVec a) (y : BitVec b) (z : BitVec c) :
    (x ++ y ++ z).extractLsb' 0 c = z ∧ (x ++ y ++ z).extractLsb' c b = y ∧
      (x ++ y ++ z).extractLsb' (c + b) a = x := by
  obtain ⟨hy, hx⟩ := slices_of_two x y
  refine ⟨(slices_of_two (x ++ y) z).1, ?_, ?_⟩
  · exact (slice_in_high (x ++ y) z 0 b).trans hy
  · exact (slice_in_high (x ++ y) z b a).trans hx

theorem slices_of_four {a b c d : Nat} (x : BitVec a) (y : BitVec b) (z : BitVec c) (t : BitVec d) :
    (x ++ y ++ z ++ t).extractLsb' 0 d = t ∧ (x ++ y ++ z ++ t).extractLsb' d c = z ∧
      (x ++ y ++ z ++ t).extractLsb' (d + c) b = y ∧ (x ++ y ++ z ++ t).extractLsb' (d + (c + b)) a = x := by
  obtain ⟨hz, hy, hx⟩ := slices_of_three x y z
  refine ⟨(slices_of_two (x ++ y ++ z) t).1, ?_, ?_, ?_⟩
  · exact (slice_in_high (x ++ y ++ z) t 0 c).trans hz
  · exact (slice_in_high (x ++ y ++ z) t c b).trans hy
  · exact (slice_in_high (x ++ y ++ z) t (c + b) a).trans hx

/-- The parts of a word laid out as STATUS (rule R41). -/
theorem status_slices (res : BitVec 15) (armed err speed stream busy : BitVec 1) (pend orient owner ctl : BitVec 2)
    (result : BitVec 4) :
    let w := res ++ armed ++ pend ++ orient ++ result ++ err ++ speed ++ owner ++ stream ++ busy ++ ctl
    w.extractLsb' 0 2 = ctl ∧ w.extractLsb' 2 1 = busy ∧ w.extractLsb' 3 1 = stream ∧ w.extractLsb' 4 2 = owner ∧
      w.extractLsb' 6 1 = speed ∧ w.extractLsb' 7 1 = err ∧ w.extractLsb' 8 4 = result ∧
      w.extractLsb' 12 2 = orient ∧ w.extractLsb' 14 2 = pend ∧ w.extractLsb' 16 1 = armed ∧
      w.extractLsb' 17 15 = res := by
  intro w
  simp (disch := decide) only [w, slice_above, slice_in_low, slice_all, Nat.reduceSub, and_self]

/-- A one-bit field read as a bit. -/
theorem bit_of_slice {n : Nat} (w : BitVec n) (i : Nat) (b : Bool) (h : w.extractLsb' i 1 = flagBit b) :
    w.getLsbD i = b := by
  have hbit := congrArg (fun x => x.getLsbD 0) h
  simpa [flagBit] using hbit

/-- `w` shows the fields of STATUS of `s` at their bits (rule R41). -/
structure ShowsStatus (w : Word) (s : State) : Prop where
  ctl : w.extractLsb' 0 2 = ctlCode s.ctl
  busy : w.getLsbD 2 = s.busy
  stream : w.getLsbD 3 = s.stream
  owner : w.extractLsb' 4 2 = ownerCode s.owner
  speed : w.extractLsb' 6 1 = speedCode s.speed
  errSticky : w.getLsbD 7 = s.errSticky
  result : w.extractLsb' 8 4 = resultCode s.result
  orient : w.extractLsb' 12 2 = s.orient
  pend : w.extractLsb' 14 2 = s.pend
  winArmed : w.getLsbD 16 = s.winArmed
  reserved : w.extractLsb' 17 15 = 0

theorem readRegister_status (s : State) : ShowsStatus (readRegister s 0x04) s := by
  obtain ⟨hctl, hbusy, hstream, howner, hspeed, herr, hresult, horient, hpend, harmed, hres⟩ :=
    status_slices 0 (flagBit s.winArmed) (flagBit s.errSticky) (speedCode s.speed) (flagBit s.stream) (flagBit s.busy)
      s.pend s.orient (ownerCode s.owner) (ctlCode s.ctl) (resultCode s.result)
  exact ⟨hctl, bit_of_slice _ _ _ hbusy, bit_of_slice _ _ _ hstream, howner, hspeed, bit_of_slice _ _ _ herr, hresult,
    horient, hpend, bit_of_slice _ _ _ harmed, hres⟩

/-- Settles O16: each register is put together from its fields. -/
theorem hostRegisterFieldsInPlace : Obligations.HostRegisterFieldsInPlace := by
  refine ⟨rfl, rfl, rfl, rfl, fun s => ?_⟩
  obtain ⟨hctl, hbusy, hstream, howner, hspeed, herr, hresult, horient, hpend, harmed, hres⟩ := readRegister_status s
  obtain ⟨hwidth, hheight⟩ := slices_of_two (logicalHeight s.orient) (logicalWidth s.orient)
  obtain ⟨hvalid, hlow, hpress, hhigh⟩ := slices_of_four (0 : BitVec 17) s.tPress (0 : BitVec 7) (flagBit s.tValid)
  obtain ⟨hz1, hz2, hz⟩ := slices_of_three (0 : BitVec 16) s.tZ2 s.tZ1
  obtain ⟨hx, hxres, hy, hyres⟩ := slices_of_four (0 : BitVec 4) s.tYraw (0 : BitVec 4) s.tXraw
  exact ⟨hctl, hbusy, hstream, howner, hspeed, herr, hresult, horient, hpend, harmed, hres, hwidth, hheight,
    bit_of_slice _ _ _ hvalid, hlow, hpress, hhigh, rfl, rfl, hz1, hz2, hz, hx, hxres, hy, hyres, rfl⟩

/-! ### What a read during BUSY shows -/

/-- A free choice among some values is one of them. -/
theorem pickFrom_mem {α : Type} (n : Nat) (x : α) (xs : List α) (d : α) : pickFrom n (x :: xs) d ∈ x :: xs := by
  have hlt : n % (x :: xs).length < (x :: xs).length := Nat.mod_lt _ (by simp)
  rw [pickFrom, List.getD_eq_getElem _ _ hlt]
  exact List.getElem_mem hlt

theorem pickFrom_two {α : Type} (n : Nat) (x y d : α) : pickFrom n [x, y] d = x ∨ pickFrom n [x, y] d = y := by
  simpa using pickFrom_mem n x [y] d

theorem busyView_stream (i : Option Instr) (s t : State) :
    (busyView i s t).stream = s.stream ∨ (busyView i s t).stream = t.stream := pickFrom_two _ _ _ _
theorem busyView_errSticky (i : Option Instr) (s t : State) :
    (busyView i s t).errSticky = s.errSticky ∨ (busyView i s t).errSticky = t.errSticky := pickFrom_two _ _ _ _
theorem busyView_result (i : Option Instr) (s t : State) :
    (busyView i s t).result = s.result ∨ (busyView i s t).result = t.result := pickFrom_two _ _ _ _
theorem busyView_orient (i : Option Instr) (s t : State) :
    (busyView i s t).orient = s.orient ∨ (busyView i s t).orient = t.orient := pickFrom_two _ _ _ _
theorem busyView_pend (i : Option Instr) (s t : State) :
    (busyView i s t).pend = s.pend ∨ (busyView i s t).pend = t.pend := pickFrom_two _ _ _ _
theorem busyView_winArmed (i : Option Instr) (s t : State) :
    (busyView i s t).winArmed = s.winArmed ∨ (busyView i s t).winArmed = t.winArmed := pickFrom_two _ _ _ _

/-- The intermediate values of the command `i`, if it is carried out (rule R48). -/
def valuesDuring {α : Type} (i : Option Instr) (done : Bool) (during : Instr → List α) : List α :=
  match i with
  | some c => if done then during c else []
  | none => []

theorem mem_valuesDuring {α : Type} (i : Option Instr) (done : Bool) (during : Instr → List α) (x : α) :
    x ∈ valuesDuring i done during ↔ done = true ∧ ∃ c, i = some c ∧ x ∈ during c := by
  cases i with
  | none => simp [valuesDuring]
  | some c => cases done <;> simp [valuesDuring]

/-- The intermediate controller state of a command that is carried out (rules R48, R192). -/
theorem busyView_ctl (i : Option Instr) (s t : State) :
    (busyView i s t).ctl = s.ctl ∨ (busyView i s t).ctl = t.ctl ∨
      (t.result = .ok ∧ ∃ c, i = some c ∧ (busyView i s t).ctl ∈ ctlDuring c) := by
  have hmem : (busyView i s t).ctl ∈ s.ctl :: t.ctl :: valuesDuring i (decide (t.result = .ok)) ctlDuring :=
    pickFrom_mem _ _ _ _
  simpa only [List.mem_cons, mem_valuesDuring, decide_eq_true_eq] using hmem

/-- A value before, a value after, or that of the running command's peripheral. -/
theorem busDuring_cases {α : Type} (g : Periph → α) (x y z : α) (i : Option Instr) (done : Prop) [Decidable done]
    (h : z ∈ x :: y :: (valuesDuring i (decide done) (fun c => [busDuring c])).map g) :
    z = x ∨ z = y ∨ (done ∧ ∃ c, i = some c ∧ z = g (busDuring c)) := by
  rcases List.mem_cons.mp h with hx | h
  · exact .inl hx
  rcases List.mem_cons.mp h with hy | h
  · exact .inr (.inl hy)
  obtain ⟨p, hp, rfl⟩ := List.mem_map.mp h
  obtain ⟨hdone, c, hc, hpc⟩ := (mem_valuesDuring _ _ _ _).mp hp
  exact .inr (.inr ⟨of_decide_eq_true hdone, c, hc, by rw [List.mem_singleton.mp hpc]⟩)

/-- The intermediate holder of the bus (rules R48, R143). -/
theorem busyView_owner (i : Option Instr) (s t : State) :
    (busyView i s t).owner = s.owner ∨ (busyView i s t).owner = t.owner ∨
      (t.result = .ok ∧ ∃ c, i = some c ∧ (busyView i s t).owner = some (busDuring c)) :=
  busDuring_cases some _ _ _ i (t.result = .ok) (pickFrom_mem _ _ _ _)

/-- The intermediate speed (rules R48, R143). -/
theorem busyView_speed (i : Option Instr) (s t : State) :
    (busyView i s t).speed = s.speed ∨ (busyView i s t).speed = t.speed ∨
      (t.result = .ok ∧ ∃ c, i = some c ∧ (busyView i s t).speed = rated (busDuring c)) :=
  busDuring_cases rated _ _ _ i (t.result = .ok) (pickFrom_mem _ _ _ _)

/-- The touch registers are of one state as a whole: never of a partial poll. -/
theorem busyView_touch (i : Option Instr) (s t : State) :
    SameTouch s (busyView i s t) ∨ SameTouch t (busyView i s t) := by
  unfold busyView
  by_cases hpick : Config.busyPick s.busyReads 9 % 2 = 0
  · exact .inl (by simp [SameTouch, hpick])
  · exact .inr (by simp [SameTouch, hpick])

theorem currentCommand_eq_some (s : State) (i : Instr) : currentCommand s = some i ↔ decode s.cbuf = .ok i := by
  unfold currentCommand
  split <;> simp_all

theorem ownerCode_busDuring (i : Instr) : ownerCode (some (busDuring i)) = if i = .tpoll then 2 else 1 := by
  cases i <;> rfl

theorem speedCode_busDuring (i : Instr) : speedCode (rated (busDuring i)) = if i = .tpoll then 1 else 0 := by
  cases i <;> rfl

/-- The codes of the intermediate controller states. -/
theorem ctlCode_during (i : Instr) (c : CtlState) (h : c ∈ ctlDuring i) :
    (i = .reset ∧ ctlCode c = 1) ∨ (i = .config ∧ ctlCode c = 2) := by
  cases i <;> simp_all [ctlDuring, ctlCode]

/-- GEOMETRY shows the orientation alone, the touch registers the touch results alone. -/
theorem readRegister_geometry (s t : State) (h : t.orient = s.orient) : readRegister t 0x08 = readRegister s 0x08 := by
  simp [readRegister, geometryWord, h]

theorem readRegister_touch (s t : State) (off : Nat) (h : SameTouch s t)
    (hoff : off ∈ [0x0C, 0x10, 0x14, 0x18, 0x1C]) : readRegister t off = readRegister s off := by
  obtain ⟨hvalid, hx, hy, hz1, hz2, hpress, hxraw, hyraw⟩ := h
  fin_cases hoff <;>
    simp [readRegister, touchStatusWord, touchRawZWord, touchRawXYWord, hvalid, hx, hy, hz1, hz2, hpress, hxraw, hyraw]

/-- GEOMETRY and the touch registers during BUSY are those of the state before or of the state after. -/
theorem readRegister_busyView (i : Option Instr) (s t : State) (off : Nat)
    (hoff : off ∈ [0x08, 0x0C, 0x10, 0x14, 0x18, 0x1C]) :
    readRegister (busyView i s t) off = readRegister s off ∨
      readRegister (busyView i s t) off = readRegister t off := by
  rcases List.mem_cons.mp hoff with rfl | htouch
  · exact (busyView_orient i s t).imp (readRegister_geometry _ _) (readRegister_geometry _ _)
  · exact (busyView_touch i s t).imp (readRegister_touch _ _ off · htouch) (readRegister_touch _ _ off · htouch)

/-- CMD reads 0, as the reserved offsets do (rules R40, R47). -/
theorem readRegister_zero (s : State) (off : Nat) (h : off = 0x00 ∨ 0x20 ≤ off) : readRegister s off = 0 := by
  rcases h with rfl | h
  · rfl
  · exact readRegister_reserved s off h

/-- What a read shows that is made while the command runs. -/
def readDuring (s : State) : State := busyView (currentCommand s) s.dropHostOp (completionOf s).dropHostOp

theorem step_read_busy (off : Nat) (rest : List HostOp) (s : State) (hc : configLegal s.cfg = true)
    (hb : s.busy = true) (ha : off % 4 = 0) (hw : off < 64) (ho : s.hostOps = .read off 4 :: rest) :
    step s = .next { s with
      hostOps := rest
      readLog := s.readLog ++ [⟨off, readRegister (readDuring s) off⟩]
      busyReads := s.busyReads + 1 } := by
  have hview : readView s.dropHostOp (completionOf s).dropHostOp = readDuring s := if_pos hb
  rw [step_read off rest s hc ha hw ho, ← dropHostOp_eq _ rest s ho, hview, if_pos hb]

/-- The fields of STATUS that a read during BUSY shows are among those rule R48 admits. -/
theorem readDuring_status (s : State) (v : Word) (h : ShowsStatus v (readDuring s)) :
    (v.extractLsb' 0 2 = ctlCode s.ctl ∨ v.extractLsb' 0 2 = ctlCode (completionOf s).ctl ∨
      ((completionOf s).result = .ok ∧
        ((decode s.cbuf = .ok .reset ∧ v.extractLsb' 0 2 = 1) ∨
          (decode s.cbuf = .ok .config ∧ v.extractLsb' 0 2 = 2)))) ∧
    (v.extractLsb' 4 2 = ownerCode s.owner ∨ v.extractLsb' 4 2 = ownerCode (completionOf s).owner ∨
      ∃ i, decode s.cbuf = .ok i ∧ (completionOf s).result = .ok ∧
        v.extractLsb' 4 2 = if i = .tpoll then 2 else 1) ∧
    (v.extractLsb' 6 1 = speedCode s.speed ∨ v.extractLsb' 6 1 = speedCode (completionOf s).speed ∨
      ∃ i, decode s.cbuf = .ok i ∧ (completionOf s).result = .ok ∧
        v.extractLsb' 6 1 = if i = .tpoll then 1 else 0) := by
  refine ⟨?_, ?_, ?_⟩
  · rw [h.ctl]
    rcases busyView_ctl (currentCommand s) s.dropHostOp (completionOf s).dropHostOp with hs | ht | ⟨hok, i, hi, hmid⟩
    · exact .inl (congrArg ctlCode hs)
    · exact .inr (.inl (congrArg ctlCode ht))
    · have hdecode := (currentCommand_eq_some s i).mp hi
      rcases ctlCode_during i _ hmid with ⟨rfl, hcode⟩ | ⟨rfl, hcode⟩
      · exact .inr (.inr ⟨hok, .inl ⟨hdecode, hcode⟩⟩)
      · exact .inr (.inr ⟨hok, .inr ⟨hdecode, hcode⟩⟩)
  · rw [h.owner]
    rcases busyView_owner (currentCommand s) s.dropHostOp (completionOf s).dropHostOp with hs | ht | ⟨hok, i, hi, hmid⟩
    · exact .inl (congrArg ownerCode hs)
    · exact .inr (.inl (congrArg ownerCode ht))
    · exact .inr (.inr ⟨i, (currentCommand_eq_some s i).mp hi, hok,
        (congrArg ownerCode hmid).trans (ownerCode_busDuring i)⟩)
  · rw [h.speed]
    rcases busyView_speed (currentCommand s) s.dropHostOp (completionOf s).dropHostOp with hs | ht | ⟨hok, i, hi, hmid⟩
    · exact .inl (congrArg speedCode hs)
    · exact .inr (.inl (congrArg speedCode ht))
    · exact .inr (.inr ⟨i, (currentCommand_eq_some s i).mp hi, hok,
        (congrArg speedCode hmid).trans (speedCode_busDuring i)⟩)

/-- Settles O15: the read shows `readDuring s`, whose every field is a choice among those rule R48 admits. -/
theorem busyReadAdmitsOnlyNamedValues : Obligations.BusyReadAdmitsOnlyNamedValues := by
  intro off rest s hc hb ha hw ho
  refine ⟨_, step_read_busy off rest s hc hb ha hw ho, ?_, fun hoff => ?_, readRegister_zero (readDuring s) off⟩
  · rintro rfl
    have h := readRegister_status (readDuring s)
    obtain ⟨hctl, howner, hspeed⟩ := readDuring_status s _ h
    exact ⟨h.busy, hctl, (busyView_stream _ _ _).imp h.stream.trans h.stream.trans, howner, hspeed,
      (busyView_errSticky _ _ _).imp h.errSticky.trans h.errSticky.trans,
      (busyView_result _ _ _).imp (h.result.trans <| congrArg resultCode ·) (h.result.trans <| congrArg resultCode ·),
      (busyView_orient _ _ _).imp h.orient.trans h.orient.trans,
      (busyView_pend _ _ _).imp h.pend.trans h.pend.trans,
      (busyView_winArmed _ _ _).imp h.winArmed.trans h.winArmed.trans, h.reserved⟩
  · exact readRegister_busyView (currentCommand s) s.dropHostOp (completionOf s).dropHostOp off hoff

end Sys2Proof.Machine
end

section
/-! SUPPORT. The family of the memory rules: the byte order on the wire of window coordinates and pixels (rules R66, R67),
the host's accesses and the step around a command (rules R71 to R73, R77, R78), and the touch samples as numbers (rules
R68, R223, R225). -/

namespace Sys2Proof.Machine

/-! ### A command whose guards pass -/

/-- The completion step with result OK leaves the sticky flag as it is (rule R262). -/
theorem complete_ok (s : State) : complete .ok s = { s with result := .ok, cbuf := [], busy := false } := by
  simp [complete]

theorem exec_setwin_ready (s : State) (x0 y0 x1 y1 : Half) (hstream : s.stream = false) (hctl : s.ctl = .ready) :
    exec (.setwin x0 y0 x1 y1) s = finish (setWindow x0 y0 x1 y1 s) := by
  simp [exec, execSetwin, hstream, hctl]

theorem exec_pixel_stream (s : State) (p : Half) (h : s.stream = true) :
    exec (.pixel p) s = finish (streamPixel p s) := by simp [exec, execPixel, h]

theorem exec_byte_stream (s : State) (b : Byte) (h : s.stream = true) :
    exec (.byte b) s = finish (xfer b s) := by simp [exec, execByte, h]

/-! ### SETWIN -/

/-- The order of a window's writes: columns before rows, start before end, low byte before high byte (rules R67, R155). -/
theorem windowEvents_eq (c : Config) (x0 y0 x1 y1 : Half) :
    windowEvents c x0 y0 x1 y1 =
      regWriteEvents c c.winReg.colStartLow (x0.extractLsb' 0 8) ++
      regWriteEvents c c.winReg.colStartHigh (x0.extractLsb' 8 8) ++
      regWriteEvents c c.winReg.colEndLow (x1.extractLsb' 0 8) ++
      regWriteEvents c c.winReg.colEndHigh (x1.extractLsb' 8 8) ++
      regWriteEvents c c.winReg.rowStartLow (y0.extractLsb' 0 8) ++
      regWriteEvents c c.winReg.rowStartHigh (y0.extractLsb' 8 8) ++
      regWriteEvents c c.winReg.rowEndLow (y1.extractLsb' 0 8) ++
      regWriteEvents c c.winReg.rowEndHigh (y1.extractLsb' 8 8) := by
  simp only [windowEvents, windowWrites, regWritesEvents, lowByte, highByte, List.flatMap_cons, List.flatMap_nil,
    List.append_nil, List.append_assoc]

/-- SETWIN from READY with the bus idle arms the window, and the wire shows the window's writes (rule R156). -/
theorem exec_setwin_idle (s : State) (x0 y0 x1 y1 : Half) (h : BusIdle s) (hctl : s.ctl = .ready) :
    ∃ c m, exec (.setwin x0 y0 x1 y1) s =
      .next (complete .ok { (s.afterDisplay (windowEvents s.cfg x0 y0 x1 y1) c m) with winArmed := true }) := by
  obtain ⟨hstream, hfree⟩ := h
  obtain ⟨u, hu⟩ := setWindow_ok x0 y0 x1 y1 s hfree
  obtain ⟨-, c, m, -, rfl⟩ := setWindow_eq_ok x0 y0 x1 y1 s u hu
  refine ⟨c, m, ?_⟩
  rw [exec_setwin_ready s x0 y0 x1 y1 hstream hctl]
  exact (finish_eq_next _ _).mpr ⟨_, hu, rfl⟩

/-- Settles O27: the window's events written out, after the acquisition's SPEED event. -/
theorem setwinSendsEightWrites : Obligations.SetwinSendsEightWrites := by
  intro s x0 y0 x1 y1 h hctl
  obtain ⟨c, m, hexec⟩ := exec_setwin_idle s x0 y0 x1 y1 h hctl
  refine ⟨c, m, ?_⟩
  rw [hexec, complete_ok]
  simp only [State.afterDisplay, windowEvents_eq, List.append_assoc, List.cons_append, List.nil_append]

/-! ### PIXEL and BYTE -/

/-- PIXEL with a stream open: two bytes shifted, the high one first (rule R170). -/
theorem exec_pixel_open (s : State) (p : Half) (h : StreamOpen s) :
    exec (.pixel p) s =
      .next (complete .ok ((s.shifted (.xfer .lcd (highByte p) none)).shifted (.xfer .lcd (lowByte p) none))) := by
  rw [exec_pixel_stream s p h.1, streamPixel_stream p s h]
  rfl

/-- BYTE with a stream open: its byte shifted (rule R175). -/
theorem exec_byte_open (s : State) (b : Byte) (h : StreamOpen s) :
    exec (.byte b) s = .next (complete .ok (s.shifted (.xfer .lcd b none))) := by
  rw [exec_byte_stream s b h.1, xfer_stream b s h]
  rfl

/-- Settles O29: two transfers change the trace and the levels of SCLK and MOSI only. -/
theorem pixelStreamsHighByteFirst : Obligations.PixelStreamsHighByteFirst := by
  intro s p h
  refine ⟨false, Config.mosiIdle s.epochs.length (s.trace.length + 1), ?_⟩
  rw [exec_pixel_open s p h, complete_ok]
  simp [State.shifted, highByte, lowByte]

theorem highByte_pixelOfBuffer (b0 b1 : Byte) : highByte (pixelOfBuffer b0 b1) = b1 :=
  (slice_in_high b1 b0 0 8).trans (slice_all b1)

theorem lowByte_pixelOfBuffer (b0 b1 : Byte) : lowByte (pixelOfBuffer b0 b1) = b0 :=
  (slice_in_low b1 b0 0 8 (by omega)).trans (slice_all b0)

theorem complete_streamOpen (r : Result) (s : State) : StreamOpen (complete r s) ↔ StreamOpen s := Iff.rfl

/-- The completion step between two transfers makes no difference after the second one's. -/
theorem complete_shifted_complete (e : Event) (s : State) :
    complete .ok ((complete .ok s).shifted e) = complete .ok (s.shifted e) := by
  simp [complete, State.shifted]

/-- Settles O32: the high byte of a little-endian pixel is its second byte, and the completion step that BYTE makes
between the two leaves no mark. -/
theorem twoBytesStreamLikeOnePixel : Obligations.TwoBytesStreamLikeOnePixel := by
  intro s b0 b1 h
  have hmid : StreamOpen (complete .ok (s.shifted (.xfer .lcd b1 none))) :=
    (complete_streamOpen _ _).mpr ((shifted_streamOpen s _).mpr h)
  refine ⟨_, exec_pixel_open s _ h, ?_, ?_⟩
  · simp only [runCommands, exec_byte_open s b1 h, exec_byte_open _ b0 hmid, complete_shifted_complete,
      highByte_pixelOfBuffer, lowByte_pixelOfBuffer]
  · simp [highByte_pixelOfBuffer, lowByte_pixelOfBuffer]

/-! ### The step and the host's accesses -/

/-- Settles O1: with the command accepted and the host waiting, the move is the command's. -/
theorem stepRunsAcceptedCommand : Obligations.StepRunsAcceptedCommand := step_of_running

theorem admitted_eq_false (off bytes : Nat) (h : bytes ≠ 4 ∨ off % 4 ≠ 0 ∨ 64 ≤ off) :
    admitted off bytes = false := by
  simp only [admitted, Bool.and_eq_false_iff, decide_eq_false_iff_not, Nat.not_lt, or_assoc]
  exact h

/-- Settles O12: such an access, write or read, is not held back by a running command, and the port does not admit it. -/
theorem otherAccessesStuck : Obligations.OtherAccessesStuck := by
  intro off bytes v rest s hc hbad ho
  have hno : admitted off bytes = false := admitted_eq_false off bytes hbad
  rcases ho with hwrite | hread
  · rw [step_of_hostOp _ rest s hc hwrite (by simp [holdsBack, hno])]
    simp [hostMove, hostWrite, hno, moveOutcome]
  · rw [step_of_hostOp _ rest s hc hread (by simp [holdsBack])]
    simp [hostMove, hostRead, hno, moveOutcome]

theorem readView_idle (s t : State) (h : s.busy = false) : readView s t = s := by simp [readView, h]

/-- No register shows the host's accesses to come. -/
theorem readRegister_hostOps (s : State) (ops : List HostOp) (off : Nat) :
    readRegister { s with hostOps := ops } off = readRegister s off := rfl

/-- Settles O14: with no command running the read's view is the state itself, and no read during BUSY is counted. -/
theorem idleReadReturnsRegister : Obligations.IdleReadReturnsRegister := by
  intro off rest s hc hb ha hw ho
  have hview : readView { s with hostOps := rest } (completionOf s).dropHostOp = { s with hostOps := rest } :=
    readView_idle _ _ hb
  rw [step_read off rest s hc ha hw ho, hview, readRegister_hostOps]
  simp [hb]

/-! ### The touch samples as numbers -/

/-- Two bytes put together, high byte first, as a number. -/
theorem toNat_bytes (hi lo : Byte) : (hi ++ lo : Half).toNat = hi.toNat * 256 + lo.toNat := by
  rw [BitVec.toNat_append, ← Nat.shiftLeft_add_eq_or_of_lt lo.isLt, Nat.shiftLeft_eq]

/-- Bits [14:3] of a response (rules R68, R223): dropping three bits divides by 8, keeping twelve is modulo 4096. -/
theorem rawSample_toNat (hi lo : Byte) : (rawSample hi lo).toNat = ((hi.toNat * 256 + lo.toNat) / 8) % 4096 := by
  rw [rawSample, BitVec.extractLsb'_toNat, toNat_bytes, Nat.shiftRight_eq_div_pow]

/-- The pressure (rule R225): masking bit 7 of `z1` away is taking it modulo 128. -/
theorem pressure_toNat (z1 z2 : Byte) :
    (pressure z1 z2).toNat = (z1.toNat % 128 + (255 - z2.toNat)) % 128 := by
  have hmask : (z1 &&& 0x7F).toNat = z1.toNat % 128 := by
    rw [BitVec.toNat_and]
    exact Nat.and_two_pow_sub_one_eq_mod z1.toNat 7
  rw [pressure, BitVec.toNat_ofNat, hmask, Nat.mod_mod]

/-- Settles O41: the two formulas, one for the sample and one for the pressure. -/
theorem sampleArithmetic : Obligations.SampleArithmetic := ⟨rawSample_toNat, pressure_toNat⟩

end Sys2Proof.Machine
end

section
/-! SUPPORT. The family of the encoding rules, first part: the decoder and the encoder undo each other, and the opcode
map tells which words begin a command (rules R90 to R101). -/

namespace Sys2Proof

/-! ### What the decoder does -/

/-- A word whose opcode is not SETWIN's is a whole command, or none (rule R91). -/
theorem decode_of_op_ne_setwin (w : Word) (h : fieldOp w ≠ 0x05) : decode [w] = decodeOneWord w :=
  if_neg (ne_setwin_of_op w h)

/-- Rule R101's two ways to a command: one word that is not SETWIN's word0, or SETWIN's word0 and any two operand
words. -/
theorem decode_eq_ok (ws : List Word) (i : Instr) (h : decode ws = .ok i) :
    (∃ w, ws = [w] ∧ w ≠ setwinWord0 ∧ decodeOneWord w = .ok i) ∨
      ∃ v w, ws = [setwinWord0, v, w] ∧ i = .setwin (fieldHigh v) (fieldLow v) (fieldHigh w) (fieldLow w) := by
  match ws with
  | [] => cases h
  | [w] =>
    rw [decode] at h
    split at h <;> rename_i hw
    · cases h
    · exact .inl ⟨w, rfl, hw, h⟩
  | [w0, _] =>
    rw [decode] at h
    split at h <;> cases h
  | [w0, v, w] =>
    rw [decode] at h
    split at h <;> rename_i hw
    · cases h
      exact .inr ⟨v, w, by rw [hw], rfl⟩
    · cases h
  | _ :: _ :: _ :: _ :: _ => cases h

/-! ### Decoding what was encoded -/

/-- Settles O6, command by command: of a word the encoder wrote, the opcode selects the command's arm, the reserved
field is 0 and the other fields are the operands. -/
theorem decodeOfEncode : Obligations.DecodeOfEncode := by
  intro i
  cases i with
  | reset => decide
  | config => decide
  | setori deg =>
    rw [encode, decode_of_op_ne_setwin _ (by simp)]
    simp [decodeOneWord, whenReserved]
  | wrreg a v =>
    rw [encode, decode_of_op_ne_setwin _ (by simp)]
    simp [decodeOneWord, whenReserved]
  | setwin x0 y0 x1 y1 =>
    rw [encode, formatN_setwin]
    simp [decode]
  | beginStream => decide
  | pixel p =>
    rw [encode, decode_of_op_ne_setwin _ (by simp)]
    simp [decodeOneWord, whenReserved]
  | byte b =>
    rw [encode, decode_of_op_ne_setwin _ (by simp)]
    simp [decodeOneWord, whenReserved]
  | endStream => decide
  | tpoll => decide

/-! ### Encoding what was decoded -/

/-- A reserved field that is not 0 is all that can refuse a command whose opcode is known (rule R100). -/
theorem whenReserved_eq_ok (reservedIsZero : Bool) (i j : Instr) :
    whenReserved reservedIsZero i = .ok j ↔ reservedIsZero = true ∧ i = j := by
  cases reservedIsZero <;> simp [whenReserved]

theorem whenReserved_error (reservedIsZero : Bool) (i : Instr) (e : DecodeError)
    (h : whenReserved reservedIsZero i = .error e) : e = .illegal := by
  cases reservedIsZero <;> cases h
  rfl

section
variable {w : Word} {op : Byte} {i j : Instr} (hop : (fieldOp w).toNat = op.toNat)
include hop

theorem encode_of_formatN (hi : encode i = [formatN op]) (h : whenReserved (fieldReservedN w == 0) i = .ok j) :
    encode j = [w] := by
  obtain ⟨hres, rfl⟩ := (whenReserved_eq_ok _ _ _).mp h
  rw [hi, ← BitVec.eq_of_toNat_eq hop, ← eq_formatN w (eq_of_beq hres)]

theorem encode_of_formatHalf (hi : encode i = [formatHalf op (fieldLow w)])
    (h : whenReserved (fieldReservedHigh w == 0) i = .ok j) : encode j = [w] := by
  obtain ⟨hres, rfl⟩ := (whenReserved_eq_ok _ _ _).mp h
  rw [hi, ← BitVec.eq_of_toNat_eq hop, ← eq_formatHalf w (eq_of_beq hres)]

theorem encode_of_formatR (hi : encode i = [formatR op (fieldAddr w) (fieldByte w)])
    (h : whenReserved (fieldReservedHigh w == 0) i = .ok j) : encode j = [w] := by
  obtain ⟨hres, rfl⟩ := (whenReserved_eq_ok _ _ _).mp h
  rw [hi, ← BitVec.eq_of_toNat_eq hop, ← eq_formatR w (eq_of_beq hres)]

theorem encode_of_formatB (hi : encode i = [formatB op (fieldByte w)])
    (h : whenReserved (fieldReservedB w == 0) i = .ok j) : encode j = [w] := by
  obtain ⟨hres, rfl⟩ := (whenReserved_eq_ok _ _ _).mp h
  rw [hi, ← BitVec.eq_of_toNat_eq hop, ← eq_formatB w (eq_of_beq hres)]

end

/-- A one-word command's encoding is its word, by the arms of the decoder: the word is its fields put together again. -/
theorem encode_of_decodeOneWord (w : Word) (i : Instr) (h : decodeOneWord w = .ok i) : encode i = [w] := by
  unfold decodeOneWord at h
  split at h
  case h_1 hop => exact encode_of_formatN (op := 0x01) hop rfl h
  case h_2 hop => exact encode_of_formatN (op := 0x02) hop rfl h
  case h_3 hop => exact encode_of_formatHalf (op := 0x03) hop rfl h
  case h_4 hop => exact encode_of_formatR (op := 0x04) hop rfl h
  case h_5 hop => exact encode_of_formatN (op := 0x06) hop rfl h
  case h_6 hop => exact encode_of_formatHalf (op := 0x07) hop rfl h
  case h_7 hop => exact encode_of_formatB (op := 0x08) hop rfl h
  case h_8 hop => exact encode_of_formatN (op := 0x09) hop rfl h
  case h_9 hop => exact encode_of_formatN (op := 0x0A) hop rfl h
  case h_10 => cases h

/-- Settles O7, by the decoder's two ways to a command. -/
theorem encodeOfDecode : Obligations.EncodeOfDecode := by
  intro ws i h
  rcases decode_eq_ok ws i h with ⟨w, rfl, -, hone⟩ | ⟨v, w, rfl, rfl⟩
  · exact encode_of_decodeOneWord w i hone
  · rw [encode, eq_windowWord, eq_windowWord, formatN_setwin]

/-- Settles O9, by running the decoder on each. -/
theorem writtenOutWordsDecode : Obligations.WrittenOutWordsDecode := by
  exact ⟨by decide, by decide, by decide, by decide, by decide, by decide, by decide, by decide⟩

/-! ### The opcode map -/

/-- Where a row's mask is all ones, a word0 that the row covers has the row's bits. -/
theorem slice_of_covers (row : OpcodeRow) (w0 : Word) (a k : Nat) (h : row.covers w0 = true)
    (hm : row.mask.extractLsb' a k = BitVec.allOnes k) : w0.extractLsb' a k = row.matchBits.extractLsb' a k := by
  rw [← eq_of_beq h, BitVec.extractLsb'_and, hm, BitVec.and_allOnes]

/-- A command's encoding begins with a word0 that the command's row covers, and the row gives mnemonic and length. -/
theorem encode_in_row (i : Instr) : Laws.EncodesRow.Statement i := by
  cases i with
  | reset => exact Laws.EncodesRow.reset
  | config => exact Laws.EncodesRow.config
  | setori deg => exact Laws.EncodesRow.setori deg
  | wrreg a v => exact Laws.EncodesRow.wrreg a v
  | setwin x0 y0 x1 y1 => exact Laws.EncodesRow.setwin x0 y0 x1 y1
  | beginStream => exact Laws.EncodesRow.beginStream
  | pixel p => exact Laws.EncodesRow.pixel p
  | byte b => exact Laws.EncodesRow.byte b
  | endStream => exact Laws.EncodesRow.endStream
  | tpoll => exact Laws.EncodesRow.tpoll

/-- Words that decode begin with a word0 that the command's row covers; mnemonic and length are the row's. -/
theorem row_of_decode (w0 : Word) (ops : List Word) (i : Instr) (h : decode (w0 :: ops) = .ok i) :
    ∃ row ∈ opcodeMap, row.covers w0 = true ∧ row.mnemonic = mnemonicOf i ∧ row.words = ops.length + 1 := by
  obtain ⟨row, hrow, hname, hlength, hcovers⟩ := encode_in_row i
  rw [encodeOfDecode _ i h] at hlength hcovers
  exact ⟨row, hrow, hcovers w0 rfl, hname, hlength.symm⟩

/-- Every row's mask has the whole opcode, and no two rows have the same opcode. -/
theorem opcodeMap_mask_op : ∀ row ∈ opcodeMap, fieldOp row.mask = BitVec.allOnes 8 := by decide

theorem opcodeMap_op_injective : ∀ r1 ∈ opcodeMap, ∀ r2 ∈ opcodeMap,
    fieldOp r1.matchBits = fieldOp r2.matchBits → r1 = r2 := by decide

/-- At most one row covers a word0: its opcode tells which. -/
theorem covers_unique (w0 : Word) (r1 r2 : OpcodeRow) (h1 : r1 ∈ opcodeMap) (h2 : r2 ∈ opcodeMap)
    (hc1 : r1.covers w0 = true) (hc2 : r2.covers w0 = true) : r1 = r2 := by
  refine opcodeMap_op_injective r1 h1 r2 h2 ?_
  calc fieldOp r1.matchBits
    _ = fieldOp w0 := (slice_of_covers r1 w0 24 8 hc1 (opcodeMap_mask_op r1 h1)).symm
    _ = fieldOp r2.matchBits := slice_of_covers r2 w0 24 8 hc2 (opcodeMap_mask_op r2 h2)

section
variable (row : OpcodeRow) (w0 : Word) (op : Byte) (h : row.covers w0 = true) (hv : row.matchBits = formatN op)
include h hv

theorem eq_formatN_of_covers (hm : row.mask = 0xFFFFFFFF) : w0 = formatN op := by
  have hall := slice_of_covers row w0 0 32 h (by rw [hm]; decide)
  rwa [slice_all, slice_all, hv] at hall

theorem fieldOp_of_covers (hm : fieldOp row.mask = BitVec.allOnes 8) : fieldOp w0 = op :=
  (slice_of_covers row w0 24 8 h hm).trans (by rw [hv]; exact fieldOp_formatN op)

/-- A reserved field that the mask has is 0. -/
theorem reserved_of_covers (a k : Nat) (ha : a + k ≤ 24) (hm : row.mask.extractLsb' a k = BitVec.allOnes k) :
    w0.extractLsb' a k = 0 := by
  rw [slice_of_covers row w0 a k h hm, hv, formatN, slice_in_low op 0 a k ha]
  exact BitVec.extractLsb'_zero

theorem eq_formatHalf_of_covers (hm : row.mask = 0xFFFF0000) : w0 = formatHalf op (fieldLow w0) := by
  have hres := reserved_of_covers row w0 op h hv 16 8 (by omega) (by rw [hm]; decide)
  rw [← fieldOp_of_covers row w0 op h hv (by rw [hm]; decide), ← eq_formatHalf w0 hres]

theorem eq_formatR_of_covers (hm : row.mask = 0xFFFF0000) : w0 = formatR op (fieldAddr w0) (fieldByte w0) := by
  have hres := reserved_of_covers row w0 op h hv 16 8 (by omega) (by rw [hm]; decide)
  rw [← fieldOp_of_covers row w0 op h hv (by rw [hm]; decide), ← eq_formatR w0 hres]

theorem eq_formatB_of_covers (hm : row.mask = 0xFFFFFF00) : w0 = formatB op (fieldByte w0) := by
  have hres := reserved_of_covers row w0 op h hv 8 16 (by omega) (by rw [hm]; decide)
  rw [← fieldOp_of_covers row w0 op h hv (by rw [hm]; decide), ← eq_formatB w0 hres]

end

/-- Every word0 that a row covers begins the encoding of a command, whose operands are the bits outside the row's
mask. -/
theorem encode_of_covers (row : OpcodeRow) (hrow : row ∈ opcodeMap) (w0 : Word) (h : row.covers w0 = true) :
    ∃ i ops, encode i = w0 :: ops := by
  simp only [opcodeMap, List.mem_cons, List.not_mem_nil, or_false] at hrow
  rcases hrow with rfl | rfl | rfl | rfl | rfl | rfl | rfl | rfl | rfl | rfl
  · exact ⟨.reset, [], by rw [encode, ← eq_formatN_of_covers _ w0 _ h (by decide) rfl]⟩
  · exact ⟨.config, [], by rw [encode, ← eq_formatN_of_covers _ w0 _ h (by decide) rfl]⟩
  · exact ⟨.setori (fieldLow w0), [], by rw [encode, ← eq_formatHalf_of_covers _ w0 _ h (by decide) rfl]⟩
  · exact ⟨.wrreg (fieldAddr w0) (fieldByte w0), [],
      by rw [encode, ← eq_formatR_of_covers _ w0 _ h (by decide) rfl]⟩
  · exact ⟨.setwin 0 0 0 0, _, by rw [encode, ← eq_formatN_of_covers _ w0 _ h (by decide) rfl]⟩
  · exact ⟨.beginStream, [], by rw [encode, ← eq_formatN_of_covers _ w0 _ h (by decide) rfl]⟩
  · exact ⟨.pixel (fieldLow w0), [], by rw [encode, ← eq_formatHalf_of_covers _ w0 _ h (by decide) rfl]⟩
  · exact ⟨.byte (fieldByte w0), [], by rw [encode, ← eq_formatB_of_covers _ w0 _ h (by decide) rfl]⟩
  · exact ⟨.endStream, [], by rw [encode, ← eq_formatN_of_covers _ w0 _ h (by decide) rfl]⟩
  · exact ⟨.tpoll, [], by rw [encode, ← eq_formatN_of_covers _ w0 _ h (by decide) rfl]⟩

/-- Settles O8: a covered word0 begins an encoding, an encoding stands in its row, and the opcodes keep the rows
apart. -/
theorem legalExactlyWhenOneRowMatches : Obligations.LegalExactlyWhenOneRowMatches := by
  intro w0
  refine ⟨⟨?_, ?_⟩, fun r1 h1 r2 h2 => covers_unique w0 r1 r2 h1 h2, ?_⟩
  · rintro ⟨ops, i, h⟩
    obtain ⟨row, hrow, hcovers, -⟩ := row_of_decode w0 ops i h
    exact ⟨row, hrow, hcovers⟩
  · rintro ⟨row, hrow, hcovers⟩
    obtain ⟨i, ops, henc⟩ := encode_of_covers row hrow w0 hcovers
    exact ⟨ops, i, henc ▸ decodeOfEncode i⟩
  · intro ops i h row hrow hcovers
    obtain ⟨row', hrow', hcovers', hname, hlength⟩ := row_of_decode w0 ops i h
    obtain rfl := covers_unique w0 row row' hrow hrow' hcovers hcovers'
    exact ⟨hname, hlength⟩

/-- A one-word word0 that is not legal is illegal in one way only (rule R100). -/
theorem decodeOneWord_error (w : Word) (e : DecodeError) (h : decodeOneWord w = .error e) : e = .illegal := by
  unfold decodeOneWord at h
  split at h
  case h_10 => cases h; rfl
  all_goals exact whenReserved_error _ _ e h

/-- A word0 that no row covers decodes as illegal, as one word (rule R100). -/
theorem decode_of_no_row (w0 : Word) (h : ∀ row ∈ opcodeMap, row.covers w0 = false) :
    decode [w0] = .error .illegal := by
  have hne : w0 ≠ setwinWord0 := by
    rintro rfl
    exact absurd h (by decide)
  cases hd : decode [w0] with
  | ok i =>
    obtain ⟨row, hrow, hcovers, -⟩ := row_of_decode w0 [] i hd
    exact absurd ((h row hrow).symm.trans hcovers) (by decide)
  | error e =>
    have hone : decodeOneWord w0 = .error e := by rwa [decode, if_neg hne] at hd
    rw [decodeOneWord_error w0 e hone]

end Sys2Proof
end

section
/-! SUPPORT. The family of the encoding rules, second part: an illegal word0 (rules R100, R264), and a program of the
host that goes through the command port as its commands run one after the other (rules R40, R77, R78, R91, R106, R110). -/

namespace Sys2Proof.Machine

/-! ### Illegal words -/

/-- The accepted words are run if the host's next access does not come before their completion (rule R78). -/
theorem step_of_accepted (s : State) (hc : configLegal s.cfg = true) (hb : s.busy = true) (hw : HostWaits s) :
    step s = runCommand s := by
  have hmove : nextMove s = .command := by
    unfold HostWaits at hw
    unfold nextMove
    cases ho : s.hostOps with
    | nil => simp [hb]
    | cons op rest => simp [hb, hw op (by simp [ho])]
  simp [step, hc, hmove]

/-- Settles O2: a word0 that no row covers decodes as illegal, and the completion step is all that follows. -/
theorem illegalWordCompletes : Obligations.IllegalWordCompletes := by
  intro w0 s hc hb hw hcbuf hrow
  rw [step_of_accepted s hc hb hw]
  simp [runCommand, hcbuf, decode_of_no_row w0 hrow, raise, complete]

/-! ### Commands and steps one after the other -/

theorem runCommands_cons (i : Instr) (is : List Instr) (s t : State) (h : exec i s = .next t) :
    runCommands (i :: is) s = runCommands is t := by simp [runCommands, h]

/-- A list of commands that runs to its end began with its first command, run to its end. -/
theorem runCommands_cons_eq_next (i : Instr) (is : List Instr) (s t : State) :
    runCommands (i :: is) s = .next t ↔ ∃ u, exec i s = .next u ∧ runCommands is u = .next t := by
  rw [runCommands]
  cases exec i s <;> simp

theorem runCommands_append (is js : List Instr) (s t : State) (h : runCommands is s = .next t) :
    runCommands (is ++ js) s = runCommands js t := by
  induction is generalizing s with
  | nil =>
    cases h
    rfl
  | cons i is ih =>
    obtain ⟨u, hu, hrest⟩ := (runCommands_cons_eq_next i is s t).mp h
    rw [List.cons_append, runCommands_cons i _ s u hu, ih u hrest]

theorem runSteps_succ (n : Nat) (s t : State) (h : step s = .next t) : runSteps (n + 1) s = runSteps n t := by
  simp [runSteps, h]

theorem runSteps_add (m n : Nat) (s t : State) (h : runSteps m s = .next t) : runSteps (m + n) s = runSteps n t := by
  induction m generalizing s with
  | zero =>
    cases h
    rw [Nat.zero_add]
  | succ m ih =>
    rw [Nat.add_right_comm]
    cases hs : step s with
    | next u =>
      rw [runSteps_succ m s u hs] at h
      rw [runSteps_succ _ s u hs, ih u h]
    | fault f => simp [runSteps, hs] at h
    | refused r => simp [runSteps, hs] at h

/-! ### A command through the command port -/

/-- The collector is ready for the first word of a command, and the block has its parameters (rules R5, R25). -/
structure PortIdle (s : State) : Prop where
  legal : configLegal s.cfg = true
  busy : s.busy = false
  pend : s.pend = 0

/-- A command that answers a next state leaves the port as it found it: idle. -/
theorem exec_portIdle (i : Instr) (s t : State) (h : PortIdle s) (he : exec i s = .next t) : PortIdle t := by
  rcases exec_cases i s t he with ⟨code, -, -, rfl⟩ | ⟨u, heffect, rfl⟩
  · exact ⟨h.legal, rfl, h.pend⟩
  · have hframe := effect_frame i s u heffect
    exact ⟨(congrArg configLegal hframe.cfg).trans h.legal, rfl, hframe.pend.trans h.pend⟩

/-- The words of a command: one that is not SETWIN's word0, or SETWIN's word0 and two operand words (rule R91). -/
theorem encode_shape (i : Instr) :
    (∃ w, encode i = [w] ∧ w ≠ setwinWord0) ∨ ∃ v w, encode i = [setwinWord0, v, w] := by
  rcases decode_eq_ok _ i (decodeOfEncode i) with ⟨w, henc, hne, -⟩ | ⟨v, w, henc, -⟩
  · exact .inl ⟨w, henc, hne⟩
  · exact .inr ⟨v, w, henc⟩

/-- A word written to CMD while no command runs takes one step. -/
theorem runSteps_write_cmd (n : Nat) (w : Word) (rest : List HostOp) (s t : State) (hc : configLegal s.cfg = true)
    (hb : s.busy = false) (ho : s.hostOps = writeCmd w :: rest) (ht : collect w { s with hostOps := rest } = .ok t) :
    runSteps (n + 1) s = runSteps n t :=
  runSteps_succ n s t (step_write_cmd w rest s t hc hb ho ht)

/-- The writes of a command's words, one step each: then the command is accepted (rule R91). -/
theorem runSteps_issue (i : Instr) (rest : List HostOp) (s : State) (h : PortIdle s) :
    runSteps (encode i).length { s with hostOps := issue i ++ rest } = .next (s.withPort rest (encode i) true) := by
  obtain ⟨hc, hb, hp⟩ := h
  rcases encode_shape i with ⟨w, henc, hne⟩ | ⟨v, w, henc⟩
  · rw [issue, henc]
    exact runSteps_write_cmd 0 w rest _ _ hc hb rfl ((collect_eq_ok _ _ _).mpr (.inr (.inl ⟨hp, hne, rfl⟩)))
  · rw [issue, henc]
    calc runSteps 3 { s with hostOps := writeCmd setwinWord0 :: writeCmd v :: writeCmd w :: rest }
      _ = runSteps 2 { s with hostOps := writeCmd v :: writeCmd w :: rest, cbuf := [setwinWord0], pend := 2 } :=
        runSteps_write_cmd 2 _ _ _ _ hc hb rfl ((collect_eq_ok _ _ _).mpr (.inl ⟨hp, rfl, rfl⟩))
      _ = runSteps 1 { s with hostOps := writeCmd w :: rest, cbuf := [setwinWord0, v], pend := 1 } :=
        runSteps_write_cmd 1 _ _ _ _ hc hb rfl ((collect_eq_ok _ _ _).mpr (.inr (.inr (.inr ⟨rfl, rfl⟩))))
      _ = runSteps 0 { s with hostOps := rest, cbuf := [setwinWord0, v, w], pend := 0, busy := true } :=
        runSteps_write_cmd 0 _ _ _ _ hc hb rfl ((collect_eq_ok _ _ _).mpr (.inr (.inr (.inl ⟨rfl, rfl⟩))))
      _ = .next (s.withPort rest [setwinWord0, v, w] true) := by rw [← hp]; rfl

/-- An accepted command that the host waits for. -/
theorem step_withPort (i : Instr) (rest : List HostOp) (s t : State) (hc : configLegal s.cfg = true)
    (he : exec i s = .next t) :
    step (s.withPort (.awaitIdle :: rest) (encode i) true) = .next { t with hostOps := .awaitIdle :: rest } := by
  have hrun : Running i (s.withPort (.awaitIdle :: rest) (encode i) true) :=
    ⟨rfl, by simp [HostWaits, holdsBack], decodeOfEncode i⟩
  rw [step_of_running i _ (by exact hc) hrun]
  exact exec_blind i _ _ _ s t he

/-- WAITIDLE passes when no command runs (rule R106). -/
theorem step_awaitIdle (rest : List HostOp) (s : State) (hc : configLegal s.cfg = true) (hb : s.busy = false)
    (ho : s.hostOps = .awaitIdle :: rest) : step s = .next { s with hostOps := rest } := by
  rw [step_of_hostOp .awaitIdle rest s hc ho (by simp [hb]), dropHostOp_eq .awaitIdle rest s ho]
  rfl

/-- A command through the port, with its WAITIDLE: a step for each word, one for the command, one for the wait. -/
theorem runSteps_issueAndWait (i : Instr) (rest : List HostOp) (s t : State) (h : PortIdle s)
    (he : exec i s = .next t) :
    runSteps ((encode i).length + 2) { s with hostOps := issueAndWait i ++ rest } =
      .next { t with hostOps := rest } := by
  have ht := exec_portIdle i s t h he
  have hissue := runSteps_issue i (.awaitIdle :: rest) s h
  have hexec := step_withPort i rest s t h.legal he
  have hwait := step_awaitIdle rest { t with hostOps := .awaitIdle :: rest } ht.legal ht.busy rfl
  rw [issueAndWait, List.append_assoc, List.singleton_append, runSteps_add _ 2 _ _ hissue, runSteps_succ 1 _ _ hexec]
  exact runSteps_succ 0 _ _ hwait

/-- How many steps a program takes. -/
def programSteps (is : List Instr) : Nat := (is.map (fun i => (encode i).length + 2)).sum

/-- What the commands do run one after the other, the host's program of them does through the port. -/
theorem runSteps_program (is : List Instr) (rest : List HostOp) (s t : State) (h : PortIdle s)
    (hrun : runCommands is s = .next t) :
    runSteps (programSteps is) { s with hostOps := is.flatMap issueAndWait ++ rest } =
      .next { t with hostOps := rest } := by
  induction is generalizing s with
  | nil =>
    cases hrun
    rfl
  | cons i is ih =>
    obtain ⟨u, hu, hrest⟩ := (runCommands_cons_eq_next i is s t).mp hrun
    have hfirst := runSteps_issueAndWait i (is.flatMap issueAndWait ++ rest) s u h hu
    rw [List.flatMap_cons, List.append_assoc, programSteps, List.map_cons, List.sum_cons, runSteps_add _ _ _ _ hfirst]
    exact ih u (exec_portIdle i s u h hu) hrest

end Sys2Proof.Machine
end

section
/-! SUPPORT. The family of the encoding rules, third part: the pseudo-commands FLUSH and BOOT, as their commands one
after the other and as host programs (rules R110, R180, R296, R304). -/

namespace Sys2Proof.Machine

/-! ### The commands of a render -/

/-- The state after BEGIN's effect (rule R160). -/
def State.afterBegin (s : State) : State :=
  { s with
    owner := some .lcd
    speed := .disp
    csLcdN := false
    trace := s.trace ++ beginEvents s.cfg
    sclk := false
    mosi := Config.mosiIdle s.epochs.length (s.trace.length + 6)
    stream := true
    winArmed := false }

theorem afterBegin_streamOpen (s : State) (h : BusFree s) : StreamOpen s.afterBegin := by
  obtain ⟨-, -, htp⟩ := h
  exact ⟨rfl, rfl, rfl, htp, rfl⟩

/-- BEGIN on a free bus, the window armed, opens the stream. -/
theorem exec_begin_armed (s : State) (hstream : s.stream = false) (hctl : s.ctl = .ready) (harmed : s.winArmed = true)
    (hfree : BusFree s) : exec .beginStream s = .next (complete .ok s.afterBegin) := by
  have hexec : exec .beginStream s = finish (openStream s) := by simp [exec, execBegin, hstream, hctl, harmed]
  have hopen : openStream s = .ok s.afterBegin := (openStream_eq_ok s _).mpr ⟨hfree, rfl⟩
  rw [hexec, hopen, finish]

/-- END closes an open stream (rule R164). -/
theorem exec_end_open (s : State) (h : StreamOpen s) :
    exec .endStream s = .next (complete .ok { s with
      stream := false
      owner := none
      csLcdN := true
      trace := s.trace ++ [.cs .lcd true] }) := by
  obtain ⟨hstream, howner, -, htp, -⟩ := h
  have hexec : exec .endStream s = finish (closeStream s) := by simp [exec, execEnd, hstream]
  rw [hexec, (closeStream_eq_ok s _).mpr ⟨⟨howner, htp⟩, rfl⟩, finish]

/-- PIXEL after a completed command with the stream open: its two bytes, and the completion step leaves no other
mark. -/
theorem exec_pixel_afterLcd (p : Half) (s : State) (h : StreamOpen s) :
    exec (.pixel p) (complete .ok s) =
      .next (complete .ok
        (s.afterLcd (pixelEvents p) false (Config.mosiIdle s.epochs.length (s.trace.length + 1)))) := by
  rw [exec_pixel_open _ p ((complete_streamOpen _ _).mpr h)]
  simp [complete, State.shifted, State.afterLcd, pixelEvents]

/-- Any pixels of an open stream, by induction on them: two bytes each (rules R170, R180). -/
theorem runCommands_pixels (pixels : List Half) (s : State) (h : StreamOpen s) :
    ∃ c m, runCommands (pixels.map .pixel) (complete .ok s) =
      .next (complete .ok (s.afterLcd (pixels.flatMap pixelEvents) c m)) := by
  induction pixels generalizing s with
  | nil => exact ⟨s.sclk, s.mosi, by simp [runCommands]⟩
  | cons p rest ih =>
    obtain ⟨c, m, hrest⟩ := ih (s.afterLcd (pixelEvents p) false _) h
    refine ⟨c, m, ?_⟩
    rw [List.map_cons, runCommands_cons _ _ _ _ (exec_pixel_afterLcd p s h), hrest, afterLcd_afterLcd,
      List.flatMap_cons]

/-- The state after a whole stream of events `es` and END, the SPI lines left at `c` and `m` (rules R164, R180). -/
def State.afterStream (s : State) (es : List Event) (c m : Bool) : State :=
  { s with
    stream := false
    owner := none
    csLcdN := true
    trace := s.trace ++ es ++ [.cs .lcd true]
    sclk := c
    mosi := m }

/-- An open stream takes its pixels and is closed. -/
theorem runCommands_stream (pixels : List Half) (s : State) (h : StreamOpen s) :
    ∃ c m, runCommands (pixels.map .pixel ++ [.endStream]) (complete .ok s) =
      .next (complete .ok (s.afterStream (pixels.flatMap pixelEvents) c m)) := by
  obtain ⟨c, m, hpixels⟩ := runCommands_pixels pixels s h
  have hend := exec_end_open (complete .ok (s.afterLcd (pixels.flatMap pixelEvents) c m)) h
  refine ⟨c, m, ?_⟩
  rw [runCommands_append _ _ _ _ hpixels, runCommands_cons _ _ _ _ hend, runCommands]
  simp [complete_ok, State.afterLcd, State.afterStream]

/-! ### FLUSH -/

/-- The commands of `FLUSH` (rule R110). -/
def renderCommands (x0 y0 x1 y1 : Half) (pixels : List Half) : List Instr :=
  .setwin x0 y0 x1 y1 :: .beginStream :: (pixels.map .pixel ++ [.endStream])

theorem flushOps_eq (x0 y0 x1 y1 : Half) (pixels : List Half) :
    flushOps x0 y0 x1 y1 pixels = (renderCommands x0 y0 x1 y1 pixels).flatMap issueAndWait := by
  simp [flushOps, renderCommands, List.flatMap_map]

/-- SETWIN takes five steps, every other command three. -/
theorem programSteps_render (x0 y0 x1 y1 : Half) (pixels : List Half) :
    programSteps (renderCommands x0 y0 x1 y1 pixels) = 11 + 3 * pixels.length := by
  simp only [programSteps, renderCommands, encode, Function.comp_def, List.map_cons, List.map_append, List.map_map,
    List.map_const', List.map_nil, List.length_cons, List.length_nil, List.sum_cons, List.sum_append,
    List.sum_replicate, List.sum_nil, smul_eq_mul]
  omega

/-- The state after a render of events `es`, the SPI lines left at `c` and `m`. -/
def State.afterRender (s : State) (es : List Event) (c m : Bool) : State :=
  { s with
    winArmed := false
    speed := .disp
    trace := s.trace ++ es
    sclk := c
    mosi := m
    result := .ok
    cbuf := []
    busy := false }

/-- The events of a render (rules R180, R304). -/
def renderEvents (cfg : Config) (x0 y0 x1 y1 : Half) (pixels : List Half) : List Event :=
  (.speed .disp :: windowEvents cfg x0 y0 x1 y1) ++ beginEvents cfg ++ pixels.flatMap pixelEvents ++ [.cs .lcd true]

/-- SETWIN leaves the window armed for BEGIN, BEGIN the stream open for the pixels and END. -/
theorem runCommands_render (s : State) (x0 y0 x1 y1 : Half) (pixels : List Half) (h : BusIdle s)
    (hctl : s.ctl = .ready) :
    ∃ c m, runCommands (renderCommands x0 y0 x1 y1 pixels) s =
      .next (s.afterRender (renderEvents s.cfg x0 y0 x1 y1 pixels) c m) := by
  obtain ⟨hstream, hfree⟩ := h
  obtain ⟨c1, m1, hsetwin⟩ := exec_setwin_idle s x0 y0 x1 y1 ⟨hstream, hfree⟩ hctl
  have hbegin := exec_begin_armed (complete .ok
    { s.afterDisplay (windowEvents s.cfg x0 y0 x1 y1) c1 m1 with winArmed := true }) hstream hctl rfl hfree
  obtain ⟨c, m, hrest⟩ := runCommands_stream pixels _ (afterBegin_streamOpen (complete .ok
    { s.afterDisplay (windowEvents s.cfg x0 y0 x1 y1) c1 m1 with winArmed := true }) hfree)
  refine ⟨c, m, ?_⟩
  rw [renderCommands, runCommands_cons _ _ _ _ hsetwin, runCommands_cons _ _ _ _ hbegin, hrest]
  obtain ⟨howner, hlcd, -⟩ := hfree
  simp [complete_ok, State.afterDisplay, State.afterBegin, State.afterStream, State.afterRender, renderEvents, hstream,
    howner, hlcd]

/-- Settles O33: the render's commands run to that state, and the program of them through the port. -/
theorem renderStreamsAllPixels : Obligations.RenderStreamsAllPixels := by
  intro s x0 y0 x1 y1 pixels h hctl
  obtain ⟨c, m, hrun⟩ := runCommands_render s x0 y0 x1 y1 pixels h hctl
  refine ⟨c, m, _, rfl, ?_, fun hlegal hbusy hpend rest => ?_⟩
  · rw [renderCommands] at hrun
    rw [hrun]
    simp [State.afterRender, renderEvents]
  · have hport := runSteps_program _ rest s _ ⟨hlegal, hbusy, hpend⟩ hrun
    rw [programSteps_render, ← flushOps_eq] at hport
    simpa [State.afterRender, renderEvents] using hport

/-! ### BOOT -/

/-- From `s` to `t` a command that completed OK has put `es` on the wire and left the bus idle, the controller in `ctl`
and the orientation `o`. -/
structure CompletedIdle (s : State) (ctl : CtlState) (o : BitVec 2) (es : List Event) (t : State) : Prop where
  bus : BusIdle t
  ctl : t.ctl = ctl
  orient : t.orient = o
  result : t.result = .ok
  errSticky : t.errSticky = s.errSticky
  cfg : t.cfg = s.cfg
  trace : t.trace = s.trace ++ es

/-- RESET with the bus idle (rule R190). -/
theorem exec_reset_idle (s : State) (h : BusIdle s) (hw : WaitsLongEnough s.cfg) :
    ∃ t, exec .reset s = .next t ∧
      CompletedIdle s .configuring (initOrientCode s.cfg) (.speed .disp :: resetPulseEvents) t := by
  obtain ⟨hstream, hfree⟩ := h
  have heffect := (resetController_idle s _ hstream).mpr ⟨⟨hfree, hw⟩, rfl⟩
  refine ⟨_, (finish_eq_next _ _).mpr ⟨_, heffect, rfl⟩, ⟨rfl, rfl, rfl, hfree.2.2⟩, rfl, rfl, rfl, ?_, rfl, rfl⟩
  rw [complete_ok]
  rfl

/-- CONFIG with the bus idle runs the table (rule R201). -/
theorem exec_config_idle (s : State) (h : BusIdle s) (hctl : s.ctl = .configuring) (hw : WaitsLongEnough s.cfg) :
    ∃ t, exec .config s = .next t ∧
      CompletedIdle s .ready s.orient (.speed .disp :: initTableEvents s.cfg s.orient s.cfg.initTable) t := by
  obtain ⟨hstream, hfree⟩ := h
  obtain ⟨u, hu⟩ := configureController_ok s hfree hw
  obtain ⟨-, c, m, n, -, -, rfl⟩ := configureController_eq_ok s u hu
  have hexec : exec .config s = finish (configureController s) := by simp [exec, execConfig, hstream, hctl]
  refine ⟨_, hexec.trans ((finish_eq_next _ _).mpr ⟨_, hu, rfl⟩), ⟨hstream, hfree⟩, rfl, rfl, rfl, ?_, rfl, rfl⟩
  rw [complete_ok]
  rfl

/-- SETORI to one of the four angles, with the bus idle (rule R211). -/
theorem exec_setori_idle (s : State) (deg : Half) (code : BitVec 2) (h : BusIdle s) (hctl : s.ctl = .ready)
    (hcode : orientCode? deg = some code) :
    ∃ t, exec (.setori deg) s = .next t ∧ t.winArmed = false ∧
      CompletedIdle s .ready code (.speed .disp :: regWriteEvents s.cfg s.cfg.orientReg (orientValue code)) t := by
  obtain ⟨hstream, hfree⟩ := h
  have heffect := (writeOrientation_eq_ok code s _).mpr ⟨hfree, rfl⟩
  have hexec : exec (.setori deg) s = finish (writeOrientation code s) := by
    simp [exec, execSetori, hstream, hctl, hcode]
  refine ⟨_, hexec.trans ((finish_eq_next _ _).mpr ⟨_, heffect, rfl⟩), rfl, ⟨hstream, hfree⟩, hctl, rfl, rfl, ?_, rfl,
    rfl⟩
  rw [complete_ok]
  rfl

/-- The commands of `BOOT` (rule R110). -/
def bootCommands (deg : Half) : List Instr := [.reset, .config, .setori deg]

theorem bootOps_eq (deg : Half) : bootOps deg = (bootCommands deg).flatMap issueAndWait := by
  simp [bootOps, bootCommands]

theorem programSteps_boot (deg : Half) : programSteps (bootCommands deg) = 9 := rfl

/-- The events of a boot (rules R190, R201, R211). -/
def bootEvents (cfg : Config) (code : BitVec 2) : List Event :=
  [.speed .disp] ++ resetPulseEvents ++ (.speed .disp :: initTableEvents cfg (initOrientCode cfg) cfg.initTable) ++
    (.speed .disp :: regWriteEvents cfg cfg.orientReg (orientValue code))

/-- Each of the three commands leaves the bus idle and the controller in the state that the next one needs. -/
theorem runCommands_boot (cfg : Config) (deg : Half) (code : BitVec 2) (hw : WaitsLongEnough cfg)
    (hcode : orientCode? deg = some code) :
    ∃ t, runCommands (bootCommands deg) (State.resetWith cfg) = .next t ∧ t.winArmed = false ∧
      CompletedIdle (State.resetWith cfg) .ready code (bootEvents cfg code) t := by
  obtain ⟨r, hreset, hr⟩ := exec_reset_idle (State.resetWith cfg) ⟨rfl, rfl, rfl, rfl⟩ hw
  obtain ⟨c, hconfig, hc⟩ := exec_config_idle r hr.bus hr.ctl (hr.cfg ▸ hw)
  obtain ⟨t, hsetori, harmed, ht⟩ := exec_setori_idle c deg code hc.bus hc.ctl hcode
  refine ⟨t, ?_, harmed, ht.bus, ht.ctl, ht.orient, ht.result, ?_, ?_, ?_⟩
  · rw [bootCommands, runCommands_cons _ _ _ _ hreset, runCommands_cons _ _ _ _ hconfig,
      runCommands_cons _ _ _ _ hsetori, runCommands]
  · exact ht.errSticky.trans (hc.errSticky.trans hr.errSticky)
  · exact ht.cfg.trans (hc.cfg.trans hr.cfg)
  · rw [ht.trace, hc.trace, hr.trace, hc.cfg, hr.orient, hr.cfg]
    simp [bootEvents, State.resetWith]

/-- Settles O60: the boot's commands from the reset values, and the program of them through the port. -/
theorem bootReachesReady : Obligations.BootReachesReady := by
  intro cfg deg code hw hcode
  obtain ⟨t, hrun, harmed, ht⟩ := runCommands_boot cfg deg code hw hcode
  refine ⟨t, hrun, ht.ctl, ht.orient, harmed, ht.result, ht.errSticky, ht.bus, ht.trace, fun hlegal rest => ?_⟩
  rw [bootOps_eq, ← programSteps_boot deg]
  exact runSteps_program (bootCommands deg) rest _ t ⟨hlegal, rfl, rfl⟩ hrun

end Sys2Proof.Machine
end

section
/-! SUPPORT. The family of the bus arbiter rules, first part: TPOLL on an idle bus, without contact and with it (rules
R140, R222 to R231, R236, R240). -/

namespace Sys2Proof.Machine

theorem noContact_iff (c : Config) (p : BitVec 7) : noContact c p = true ↔ p.toNat < c.minPressure.toNat := by
  simp [noContact]

/-- TPOLL on an idle bus completes OK; the pressure says with which result (rules R226, R240). -/
theorem exec_tpoll_idle (s : State) (h : BusIdle s) :
    ∃ m n, exec .tpoll s = .next (complete .ok
      (if noContact s.cfg (pollPressure s) then s.afterNoContact m else s.afterContact n)) := by
  obtain ⟨hstream, hfree⟩ := h
  have hexec : exec .tpoll s = finish (pollTouch s) := by simp [exec, execTpoll, hstream]
  have hpoll := (pollTouch_eq_ok s _).mpr ⟨hfree, _, _, rfl, rfl, rfl⟩
  exact ⟨_, _, hexec.trans ((finish_eq_next _ _).mpr ⟨_, hpoll, rfl⟩)⟩

/-- Settles O38: below the threshold the poll takes the branch without contact, whose coordinates are 0. -/
theorem pollWithoutContact : Obligations.PollWithoutContact := by
  intro s h hpressure
  obtain ⟨m, n, hexec⟩ := exec_tpoll_idle s h
  refine ⟨m, ?_⟩
  rw [hexec, if_pos ((noContact_iff _ _).mpr hpressure), complete_ok]
  rfl

/-- Settles O39: at the threshold or above the poll takes the branch with contact, whose events follow the probe's. -/
theorem pollWithContact : Obligations.PollWithContact := by
  intro s h hpressure
  obtain ⟨m, n, hexec⟩ := exec_tpoll_idle s h
  refine ⟨n, ?_⟩
  rw [hexec, if_neg (fun hno => Nat.not_lt.mpr hpressure ((noContact_iff _ _).mp hno)), complete_ok]
  simp only [State.afterContact, storeTouch, State.afterPoll, pollZ1, pollZ2, List.append_assoc]
  rfl

end Sys2Proof.Machine
end

section
/-! SUPPORT. The family of the bus arbiter rules, second part: where the model can stop. From a state that meets the
invariant a command stops only where a wait would be too short, and a step only there or at a host access that is not
admitted (rules R71, R91, R133, R191). -/

namespace Sys2Proof.Machine

/-! ### Activities that only a too fast timer can stop -/

/-- With the parameters `c` the activity answers a state, or the delay timer is too fast and a wait stopped it. -/
def OkOrTooShort (c : Config) (r : Except Fault State) : Prop :=
  (∃ t, r = .ok t) ∨ (¬ WaitsLongEnough c ∧ r = .error .waitTooShort)

/-- The same for a command with its guards and its completion step. -/
def NextOrTooShort (c : Config) (o : Host.Outcome State Fault Refusal) : Prop :=
  (∃ t, o = .next t) ∨ (¬ WaitsLongEnough c ∧ o = .fault .waitTooShort)

theorem okOrTooShort_ok (c : Config) (t : State) : OkOrTooShort c (.ok t) := .inl ⟨t, rfl⟩

/-- One activity after another: the second has to be judged only from the state the first one answers. -/
theorem okOrTooShort_bind (c : Config) (r : Except Fault State) (f : State → Except Fault State)
    (hr : OkOrTooShort c r) (hf : ∀ t, r = .ok t → OkOrTooShort c (f t)) : OkOrTooShort c (r >>= f) := by
  rcases hr with ⟨t, rfl⟩ | ⟨hc, rfl⟩
  · exact hf t rfl
  · exact .inr ⟨hc, rfl⟩

theorem nextOrTooShort_raise (c : Config) (code : Result) (s : State) : NextOrTooShort c (raise code s) :=
  .inl ⟨_, rfl⟩

theorem nextOrTooShort_finish (c : Config) (r : Except Fault State) (h : OkOrTooShort c r) :
    NextOrTooShort c (finish r) := by
  rcases h with ⟨t, rfl⟩ | ⟨hc, rfl⟩
  · exact .inl ⟨_, rfl⟩
  · exact .inr ⟨hc, rfl⟩

/-- A guard raises its error, or the command goes on knowing that it has passed. -/
theorem nextOrTooShort_guard (c : Config) (code : Result) (s : State) (g : Prop) [Decidable g]
    (o : Host.Outcome State Fault Refusal) (h : ¬ g → NextOrTooShort c o) :
    NextOrTooShort c (if g then raise code s else o) := by
  split
  · exact nextOrTooShort_raise c code s
  · exact h ‹_›

/-! ### The activities that wait: RESET and CONFIG -/

theorem wait_okOrTooShort (n : Nat) (s : State) : OkOrTooShort s.cfg (wait n s) := by
  by_cases hw : WaitsLongEnough s.cfg
  · exact .inl ⟨_, (wait_eq_ok n s _).mpr ⟨hw, rfl⟩⟩
  · exact .inr ⟨hw, (wait_eq_error n s _).mpr ⟨Nat.not_le.mp hw, rfl⟩⟩

theorem runInitStep_okOrTooShort (step : InitStep) (s : State) (h : LcdReady s) :
    OkOrTooShort s.cfg (runInitStep step s) := by
  cases step with
  | wr _ a v => exact .inl ⟨_, (regWrite_eq_ok a v s _).mpr ⟨h, rfl⟩⟩
  | dly n => exact wait_okOrTooShort n s
  | win => exact .inl (winWrite_ok _ _ _ _ s h)

/-- By induction on the table: every step leaves the bus ready for the next one. -/
theorem runInitTable_okOrTooShort (tab : List InitStep) (s : State) (h : LcdReady s) :
    OkOrTooShort s.cfg (runInitTable tab s) := by
  induction tab generalizing s with
  | nil => exact okOrTooShort_ok s.cfg s
  | cons step rest ih =>
    refine okOrTooShort_bind s.cfg _ _ (runInitStep_okOrTooShort step s h) fun t ht => ?_
    obtain ⟨c, m, n, -, -, rfl⟩ := runInitStep_eq_ok step s t ht
    exact ih _ ((afterTable_ready _ _ _ _ _).mpr h)

theorem configureController_okOrTooShort (s : State) (h : BusFree s) :
    OkOrTooShort s.cfg (configureController s) := by
  rw [configureController, (acquire_lcd s _).mpr ⟨h, rfl⟩, except_ok_bind]
  refine okOrTooShort_bind s.cfg _ _ (runInitTable_okOrTooShort _ s.withLcd (withLcd_ready s h)) fun t ht => ?_
  obtain ⟨c, m, n, -, -, rfl⟩ := runInitTable_eq_ok _ _ t ht
  rw [(release_afterTable _ _ _ _ _ _ h).mpr rfl]
  exact okOrTooShort_ok s.cfg _

/-- RESET finds the bus free or takes over an open stream's (rule R190). -/
theorem takeBusForReset_ok (s : State) (h : EffectInv s) :
    ∃ u, takeBusForReset s = .ok u ∧ u.owner = some .lcd ∧ u.csTpN = true ∧ u.cfg = s.cfg := by
  rcases h.bus with ⟨hs, hf⟩ | ⟨⟨hs, ho, -, ht, -⟩, -⟩
  · refine ⟨s.withLcd, ?_, rfl, hf.2.2, rfl⟩
    simpa [takeBusForReset, hs] using (acquire_lcd s _).mpr ⟨hf, rfl⟩
  · exact ⟨{ s with stream := false }, by simp [takeBusForReset, hs], ho, ht, rfl⟩

/-- RESET stops at its first wait or not at all. -/
theorem resetController_okOrTooShort (s : State) (h : EffectInv s) : OkOrTooShort s.cfg (resetController s) := by
  obtain ⟨u, hu, ho, ht, hcfg⟩ := takeBusForReset_ok s h
  by_cases hw : WaitsLongEnough s.cfg
  · exact .inl ⟨_, (resetController_from s u _ hu).mpr ⟨⟨ho, ht, hcfg ▸ hw⟩, rfl⟩⟩
  · obtain ⟨v, hv, hvcfg⟩ : ∃ v, deselect .lcd { u with ctl := .resetting } = .ok v ∧ v.cfg = s.cfg :=
      ⟨_, (deselect_eq_ok _ _ _).mpr ⟨ho, rfl⟩, hcfg⟩
    have hwait : wait 50 (resetLine false v) = .error .waitTooShort :=
      (wait_eq_error _ _ _).mpr ⟨hvcfg ▸ Nat.not_le.mp hw, rfl⟩
    refine .inr ⟨hw, ?_⟩
    rw [resetController, hu, except_ok_bind, hv, except_ok_bind, hwait]
    rfl

/-! ### Every command -/

theorem busFree_of_noStream {s : State} (h : EffectInv s) (hs : ¬ s.stream = true) : BusFree s := by
  rcases h.bus with ⟨-, hf⟩ | ⟨⟨ho, -⟩, -⟩
  · exact hf
  · exact absurd ho hs

/-- From a state that meets the invariant every command completes, unless one of its waits would be too short: the
guards leave the bus free, or the stream open, as the primitives behind them need it (rule R133). -/
theorem exec_nextOrTooShort (i : Instr) (s : State) (h : EffectInv s) : NextOrTooShort s.cfg (exec i s) := by
  have hfree := busFree_of_noStream h
  have hopen (hs : ¬ s.stream = false) : StreamOpen s := streamOpen_of_stream h (by simpa using hs)
  cases i with
  | reset => exact nextOrTooShort_finish _ _ (resetController_okOrTooShort s h)
  | config =>
    refine nextOrTooShort_guard _ _ s _ _ fun hs => nextOrTooShort_guard _ _ s _ _ fun _ => ?_
    exact nextOrTooShort_finish _ _ (configureController_okOrTooShort s (hfree hs))
  | setori deg =>
    refine nextOrTooShort_guard _ _ s _ _ fun hs => nextOrTooShort_guard _ _ s _ _ fun _ => ?_
    cases orientCode? deg with
    | none => exact nextOrTooShort_raise _ _ s
    | some o => exact nextOrTooShort_finish _ _ (.inl ⟨_, (writeOrientation_eq_ok o s _).mpr ⟨hfree hs, rfl⟩⟩)
  | wrreg a v =>
    refine nextOrTooShort_guard _ _ s _ _ fun hs => nextOrTooShort_guard _ _ s _ _ fun _ => ?_
    exact nextOrTooShort_finish _ _ (.inl ⟨_, (writeOneRegister_eq_ok a v s _).mpr ⟨hfree hs, rfl⟩⟩)
  | setwin x0 y0 x1 y1 =>
    refine nextOrTooShort_guard _ _ s _ _ fun hs => nextOrTooShort_guard _ _ s _ _ fun _ => ?_
    exact nextOrTooShort_finish _ _ (.inl (setWindow_ok x0 y0 x1 y1 s (hfree hs)))
  | beginStream =>
    refine nextOrTooShort_guard _ _ s _ _ fun hs => nextOrTooShort_guard _ _ s _ _ fun _ =>
      nextOrTooShort_guard _ _ s _ _ fun _ => ?_
    exact nextOrTooShort_finish _ _ (.inl ⟨_, (openStream_eq_ok s _).mpr ⟨hfree hs, rfl⟩⟩)
  | pixel p =>
    refine nextOrTooShort_guard _ _ s _ _ fun hs => ?_
    exact nextOrTooShort_finish _ _ (.inl ⟨_, streamPixel_stream p s (hopen hs)⟩)
  | byte b =>
    refine nextOrTooShort_guard _ _ s _ _ fun hs => ?_
    exact nextOrTooShort_finish _ _ (.inl ⟨_, xfer_stream b s (hopen hs)⟩)
  | endStream =>
    refine nextOrTooShort_guard _ _ s _ _ fun hs => ?_
    obtain ⟨-, ho, -, ht, -⟩ := hopen hs
    exact nextOrTooShort_finish _ _ (.inl ⟨_, (closeStream_eq_ok s _).mpr ⟨⟨ho, ht⟩, rfl⟩⟩)
  | tpoll =>
    refine nextOrTooShort_guard _ _ s _ _ fun hs => ?_
    exact nextOrTooShort_finish _ _ (.inl ⟨_, (pollTouch_eq_ok s _).mpr ⟨hfree hs, _, _, rfl, rfl, rfl⟩⟩)

/-! ### The accepted words -/

/-- The collector hands on a command, or one illegal word0 (rules R91, R100). -/
theorem decode_of_collectorSound (s : State) (h : CollectorSound s) (hb : s.busy = true) :
    (∃ i, decode s.cbuf = .ok i) ∨ decode s.cbuf = .error .illegal := by
  obtain ⟨w, hne, hw⟩ | ⟨v, w, hw⟩ :
      (∃ w, w ≠ setwinWord0 ∧ s.cbuf = [w]) ∨ ∃ v w, s.cbuf = [setwinWord0, v, w] := by
    rcases h with ⟨hn, -⟩ | ⟨hn, -⟩ | ⟨hn, -⟩ | ⟨-, -, hwords⟩
    · simp [hb] at hn
    · simp [hb] at hn
    · simp [hb] at hn
    · exact hwords
  · rw [hw, decode, if_neg hne]
    cases hd : decodeOneWord w with
    | ok i => exact .inl ⟨i, rfl⟩
    | error e => exact .inr (congrArg _ (decodeOneWord_error w e hd))
  · exact .inl ⟨.setwin (fieldHigh v) (fieldLow v) (fieldHigh w) (fieldLow w), by rw [hw, decode, if_pos rfl]⟩

theorem runCommand_nextOrTooShort (s : State) (h : BlockInv s) (hb : s.busy = true) :
    NextOrTooShort s.cfg (runCommand s) := by
  rcases decode_of_collectorSound s h.collector hb with ⟨i, hd⟩ | hd
  · simpa [runCommand, hd] using exec_nextOrTooShort i s h.effectInv
  · simpa [runCommand, hd] using nextOrTooShort_raise s.cfg .illegalCommand s

/-! ### The host's accesses -/

/-- PENDING is never 3 (rule R25, U15). -/
theorem pend_of_collectorSound (s : State) (h : CollectorSound s) : s.pend = 0 ∨ s.pend = 1 ∨ s.pend = 2 := by
  rcases h with ⟨-, hp, -⟩ | ⟨-, hp, -⟩ | ⟨-, hp, -⟩ | ⟨-, hp, -⟩
  · exact .inl hp
  · exact .inr (.inr hp)
  · exact .inr (.inl hp)
  · exact .inl hp

theorem collect_ok (w : Word) (s : State) (h : CollectorSound s) : ∃ t, collect w s = .ok t := by
  rcases pend_of_collectorSound s h with hp | hp | hp
  · by_cases hw : w = setwinWord0
    · exact ⟨_, (collect_eq_ok w s _).mpr (.inl ⟨hp, hw, rfl⟩)⟩
    · exact ⟨_, (collect_eq_ok w s _).mpr (.inr (.inl ⟨hp, hw, rfl⟩))⟩
  · exact ⟨_, (collect_eq_ok w s _).mpr (.inr (.inr (.inl ⟨hp, rfl⟩)))⟩
  · exact ⟨_, (collect_eq_ok w s _).mpr (.inr (.inr (.inr ⟨hp, rfl⟩)))⟩

/-- With a sound collector the host's side stops only at an access that is not admitted (rule R71). -/
theorem hostMove_error (op : HostOp) (d s : State) (f : Fault) (h : CollectorSound s)
    (hf : hostMove op d s = .error f) : f = .hostAccessStuck := by
  cases op with
  | write off bytes v =>
    obtain ⟨t, ht⟩ := collect_ok v s h
    rw [hostMove, hostWrite, ht] at hf
    split at hf
    · split at hf <;> cases hf
    · cases hf
      rfl
  | read off bytes =>
    rw [hostMove, hostRead] at hf
    split at hf <;> cases hf
    rfl
  | awaitIdle => cases hf
  | blockReset k => cases hf

/-! ### The step -/

theorem moveOutcome_eq_fault (r : Except Fault State) (f : Fault) : moveOutcome r = .fault f ↔ r = .error f := by
  cases r <;> simp [moveOutcome]

/-- What a step of an admitted configuration is: the accepted command, the host's access or block reset, or nothing. -/
theorem step_eq_move (s : State) (hc : configLegal s.cfg = true) :
    (s.busy = true ∧ HostWaits s ∧ step s = runCommand s) ∨
      (∃ op rest, s.hostOps = op :: rest ∧ (s.busy && holdsBack op) = false ∧
        step s = moveOutcome (hostMove op (completionOf s).dropHostOp s.dropHostOp)) ∨
      (s.busy = false ∧ s.hostOps = [] ∧ step s = .next s) := by
  cases ho : s.hostOps with
  | nil =>
    cases hb : s.busy with
    | false => exact .inr (.inr ⟨rfl, rfl, by simp [step, hc, nextMove, ho, hb]⟩)
    | true =>
      have hw : HostWaits s := by simp [HostWaits, ho]
      exact .inl ⟨rfl, hw, step_of_accepted s hc hb hw⟩
  | cons op rest =>
    cases hb : s.busy && holdsBack op with
    | false => exact .inr (.inl ⟨op, rest, rfl, hb, step_of_hostOp op rest s hc ho hb⟩)
    | true =>
      obtain ⟨hbusy, hheld⟩ := (Bool.and_eq_true _ _).mp hb
      have hw : HostWaits s := by simpa [HostWaits, ho] using hheld
      exact .inl ⟨hbusy, hw, step_of_accepted s hc hbusy hw⟩

/-- The two faults that a step from a state of the invariant can meet: a wait that would be too short, and a host access
that is not admitted. -/
theorem step_fault (s : State) (f : Fault) (h : BlockInv s) (hf : step s = .fault f) :
    f = .waitTooShort ∨ f = .hostAccessStuck := by
  by_cases hc : configLegal s.cfg = true
  · rcases step_eq_move s hc with ⟨hb, -, hrun⟩ | ⟨op, -, -, -, hmove⟩ | ⟨-, -, hidle⟩
    · rw [hrun] at hf
      rcases runCommand_nextOrTooShort s h hb with ⟨t, ht⟩ | ⟨-, ht⟩
      · cases ht.symm.trans hf
      · cases ht.symm.trans hf
        exact .inl rfl
    · rw [hmove, moveOutcome_eq_fault] at hf
      exact .inr (hostMove_error op _ _ f (dropHostOp_blockInv s h).collector hf)
    · cases hidle.symm.trans hf
  · cases (step_of_not_configLegal s hc).symm.trans hf

/-- Settles O52: neither defect is one of the two faults that a step can meet. -/
theorem noStepReachesModelDefect : Obligations.NoStepReachesModelDefect := by
  intro s p h
  refine ⟨fun hf => ?_, fun hf => ?_⟩
  · rcases step_fault s _ h hf with hp | hp <;> cases hp
  · rcases step_fault s _ h hf with hp | hp <;> cases hp

end Sys2Proof.Machine
end

section
/-! SUPPORT. The family of the display protocol rules: WRREG and the stream's commands BEGIN, BYTE and END (rules R152,
R160, R164, R175), and the bytes RSP, DSP and the touch command byte as their fields put together (rules R63, R150,
R220, R221). -/

namespace Sys2Proof.Machine

/-! ### WRREG -/

/-- WRREG on an idle bus, in CONFIGURING or READY: the brackets of one register write (rule R152). -/
theorem exec_wrreg_idle (s : State) (addr val : Byte) (h : BusIdle s) (hctl : s.ctl = .configuring ∨ s.ctl = .ready) :
    exec (.wrreg addr val) s = .next (complete .ok (s.afterDisplay (regWriteEvents s.cfg addr val) false
      (Config.mosiIdle s.epochs.length (s.trace.length + 7)))) := by
  obtain ⟨hstream, hfree⟩ := h
  have hexec : exec (.wrreg addr val) s = finish (writeOneRegister addr val s) := by
    rcases hctl with hctl | hctl <;> simp [exec, execWrreg, hstream, hctl]
  rw [hexec, (writeOneRegister_eq_ok addr val s _).mpr ⟨hfree, rfl⟩, finish]

/-- Settles O26: the eight events are those of the register write, written out. -/
theorem wrregWritesOneRegister : Obligations.WrregWritesOneRegister := by
  intro s addr val h hctl
  refine ⟨false, Config.mosiIdle s.epochs.length (s.trace.length + 7), ?_⟩
  rw [exec_wrreg_idle s addr val h hctl, complete_ok]
  rfl

/-! ### BEGIN, BYTE and END -/

/-- Settles O28: the index `GRAM_CMD` is 0x22, and the second bracket stays open. -/
theorem beginOpensStream : Obligations.BeginOpensStream := by
  intro s h hctl harmed
  obtain ⟨hstream, hfree⟩ := h
  refine ⟨false, Config.mosiIdle s.epochs.length (s.trace.length + 6), ?_⟩
  rw [exec_begin_armed s hstream hctl harmed hfree, complete_ok]
  rfl

/-- Settles O30: one transfer changes the trace and the levels of SCLK and MOSI only. -/
theorem byteStreamsItsByte : Obligations.ByteStreamsItsByte := by
  intro s b h
  refine ⟨false, Config.mosiIdle s.epochs.length s.trace.length, ?_⟩
  rw [exec_byte_open s b h, complete_ok]
  rfl

/-- Settles O31: the completion step after END's effect. -/
theorem endClosesStream : Obligations.EndClosesStream := by
  intro s h
  rw [exec_end_open s h, complete_ok]

/-! ### RSP, DSP and the touch command byte as fields -/

/-- The device id is ORed into a field that is 0, so it takes that field's place (rule R150). -/
theorem or_deviceBits (c : Config) (select : BitVec 2) :
    ((7 : BitVec 4) ++ (0 : BitVec 2) ++ select) ||| deviceBits c = (7 : BitVec 4) ++ c.deviceId ++ select := by
  have hfields : ∀ device select : BitVec 2, ((7 : BitVec 4) ++ (0 : BitVec 2) ++ select) |||
      device.zeroExtend 8 <<< 2 = (7 : BitVec 4) ++ device ++ select := by decide
  exact hfields c.deviceId select

theorem rsp_eq_fields (c : Config) : rsp c = (7 : BitVec 4) ++ c.deviceId ++ (0 : BitVec 2) := or_deviceBits c 0

theorem dsp_eq_fields (c : Config) : dsp c = (7 : BitVec 4) ++ c.deviceId ++ (2 : BitVec 2) := or_deviceBits c 2

/-- The channel's field in the touch command byte (rule R63). -/
def channelField : Channel → BitVec 3
  | .x => 5
  | .y => 1
  | .z1 => 3
  | .z2 => 4

/-- The resolution's bit in the touch command byte: 1 for an 8-bit conversion (rule R220). -/
def resolutionFlag : Resolution → Bool
  | .bits8 => true
  | .bits12 => false

/-- The touch command byte's fields, from the high end: START, CHANNEL, RESOLUTION, MODE, POWER (rule R220). -/
theorem touchCmd_eq_fields (c : Config) (ch : Channel) (res : Resolution) :
    touchCmd c ch res =
      flagBit true ++ channelField ch ++ flagBit (resolutionFlag res) ++ flagBit false ++ c.touchPd := by
  have hfields : ∀ pd : BitVec 2, 0x80 ||| channelCode ch ||| resolutionBits res ||| 0x00 ||| pd.zeroExtend 8 =
      flagBit true ++ channelField ch ++ flagBit (resolutionFlag res) ++ flagBit false ++ pd := by
    cases ch <;> cases res <;> decide
  exact hfields c.touchPd

/-- The parts of a byte laid out as the touch command byte (rule R220). -/
theorem touchCmd_slices (start res mode : BitVec 1) (ch : BitVec 3) (power : BitVec 2) :
    let w := start ++ ch ++ res ++ mode ++ power
    w.extractLsb' 7 1 = start ∧ w.extractLsb' 4 3 = ch ∧ w.extractLsb' 3 1 = res ∧ w.extractLsb' 2 1 = mode ∧
      w.extractLsb' 0 2 = power := by
  intro w
  simp (disch := decide) only [w, slice_above, slice_in_low, slice_all, Nat.reduceSub, and_self]

/-- The touch command byte bit by bit (rule R220). -/
theorem touchCmd_bits (c : Config) (ch : Channel) (res : Resolution) :
    (touchCmd c ch res).getLsbD 7 = true ∧ (touchCmd c ch res).extractLsb' 4 3 = channelField ch ∧
      (touchCmd c ch res).getLsbD 3 = resolutionFlag res ∧ (touchCmd c ch res).getLsbD 2 = false ∧
      (touchCmd c ch res).extractLsb' 0 2 = c.touchPd := by
  rw [touchCmd_eq_fields]
  obtain ⟨hstart, hch, hres, hmode, hpower⟩ := touchCmd_slices (flagBit true) (flagBit (resolutionFlag res))
    (flagBit false) (channelField ch) c.touchPd
  exact ⟨bit_of_slice _ 7 _ hstart, hch, bit_of_slice _ 3 _ hres, bit_of_slice _ 2 _ hmode, hpower⟩

/-- RSP and DSP bit by bit (rule R150). -/
theorem rsp_dsp_bits (c : Config) :
    (rsp c).extractLsb' 4 4 = 7 ∧ (rsp c).extractLsb' 2 2 = c.deviceId ∧ (rsp c).extractLsb' 0 2 = 0 ∧
      (dsp c).extractLsb' 4 4 = 7 ∧ (dsp c).extractLsb' 2 2 = c.deviceId ∧ (dsp c).extractLsb' 0 2 = 2 := by
  rw [rsp_eq_fields, dsp_eq_fields]
  obtain ⟨hrspSelect, hrspDevice, hrspHigh⟩ := slices_of_three (7 : BitVec 4) c.deviceId (0 : BitVec 2)
  obtain ⟨hdspSelect, hdspDevice, hdspHigh⟩ := slices_of_three (7 : BitVec 4) c.deviceId (2 : BitVec 2)
  exact ⟨hrspHigh, hrspDevice, hrspSelect, hdspHigh, hdspDevice, hdspSelect⟩

/-- Settles O47: the bytes are their fields put together, and the default parameters' values are evaluated. -/
theorem protocolBytesBitByBit : Obligations.ProtocolBytesBitByBit :=
  ⟨rsp_dsp_bits, rfl, rfl, touchCmd_bits, rfl, rfl, rfl, rfl⟩

end Sys2Proof.Machine
end

section
/-! SUPPORT. The family of the display state machine rules, first part: a table that obeys rule R199 passes the check of
an init table. The other direction stands with the scope rules (`initTableRules_of_legal`). -/

namespace Sys2Proof.Machine

/-! ### The parts of a table, by their power writes (rule R199, items 1 and 4) -/

/-- Steps that write no power stage take no part in items 1 and 4. -/
theorem powerFree_append_power_checks (gap rest : List InitStep) (h : PowerFree gap) :
    powerValues (gap ++ rest) = powerValues rest ∧ powerSettled (gap ++ rest) = powerSettled rest := by
  induction gap with
  | nil => exact ⟨rfl, rfl⟩
  | cons step gap ih =>
    obtain ⟨hstep, hgap⟩ := (powerFree_cons step gap).1 h
    obtain ⟨hvalues, hsettled⟩ := ih hgap
    rw [List.cons_append, powerValues_cons_other step _ hstep]
    exact ⟨hvalues, by simp [powerSettled, hstep, hsettled]⟩

/-- A settled power stage after steps that write none: its value, and the rest of the table is still to be checked. -/
theorem powerStage_power_checks (gap rest : List InitStep) (p : InitPhase) (v : Byte) (n : Nat) (h : PowerFree gap)
    (hn : 5 ≤ n) :
    powerValues (gap ++ ([.wr p 0x1F v, .dly n] ++ rest)) = v :: powerValues rest ∧
      powerSettled (gap ++ ([.wr p 0x1F v, .dly n] ++ rest)) = powerSettled rest := by
  obtain ⟨hvalues, hsettled⟩ := powerFree_append_power_checks gap ([.wr p 0x1F v, .dly n] ++ rest) h
  rw [hvalues, hsettled]
  exact ⟨rfl, by simp [powerSettled, startsWithDelay, hn]⟩

theorem powerFree_power_checks (l : List InitStep) (h : PowerFree l) :
    powerValues l = [] ∧ powerSettled l = true := by
  simpa [powerValues, powerSettled] using powerFree_append_power_checks l [] h

/-- The four stages with steps between them that write none (the converse of `split_at_power_stages`). -/
theorem powerStages_power_checks (before gap1 gap2 gap3 ending : List InitStep) (p1 p2 p3 p4 : InitPhase)
    (n1 n2 n3 n4 : Nat) (hgaps : PowerFree (before ++ gap1 ++ gap2 ++ gap3)) (hending : PowerFree ending)
    (hn : 5 ≤ n1 ∧ 5 ≤ n2 ∧ 5 ≤ n3 ∧ 5 ≤ n4) (t : List InitStep)
    (ht : t = before ++ [.wr p1 0x1F 0x88, .dly n1] ++ gap1 ++ [.wr p2 0x1F 0x80, .dly n2] ++ gap2 ++
      [.wr p3 0x1F 0x90, .dly n3] ++ gap3 ++ [.wr p4 0x1F 0xD0, .dly n4] ++ ending) :
    powerValues t = [0x88, 0x80, 0x90, 0xD0] ∧ powerSettled t = true := by
  obtain ⟨hn1, hn2, hn3, hn4⟩ := hn
  simp only [powerFree_append, and_assoc] at hgaps
  obtain ⟨hbefore, hgap1, hgap2, hgap3⟩ := hgaps
  obtain ⟨hv, hs⟩ := powerFree_power_checks ending hending
  obtain ⟨hv4, hs4⟩ := powerStage_power_checks gap3 ending p4 0xD0 n4 hgap3 hn4
  obtain ⟨hv3, hs3⟩ := powerStage_power_checks gap2 _ p3 0x90 n3 hgap2 hn3
  obtain ⟨hv2, hs2⟩ := powerStage_power_checks gap1 _ p2 0x80 n2 hgap1 hn2
  obtain ⟨hv1, hs1⟩ := powerStage_power_checks before _ p1 0x88 n1 hbefore hn1
  simp only [ht, List.append_assoc]
  exact ⟨by rw [hv1, hv2, hv3, hv4, hv], by rw [hs1, hs2, hs3, hs4, hs]⟩

/-! ### The whole check -/

theorem powerFree_of_no_power_write (l : List InitStep) (h : ∀ step ∈ l, ∀ p v, step ≠ .wr p 0x1F v) :
    PowerFree l := by
  intro step hstep
  rw [Bool.eq_false_iff]
  intro hp
  obtain ⟨p, v, rfl⟩ := (isPowerWrite_iff step).1 hp
  exact h _ hstep p v rfl

/-- No `WIN` before the table's end, and one there: one in the whole table (rule R199, item 3). -/
theorem win_count_of_not_mem (front ending : List InitStep) (hfront : InitStep.win ∉ front)
    (hend : (ending.filter isWin).length = 1) : ((front ++ ending).filter isWin).length = 1 := by
  have hnone : front.filter isWin = [] := List.filter_eq_nil_iff.2 fun step hstep hwin => by
    obtain rfl : step = .win := by simpa [isWin] using hwin
    exact hfront hstep
  rw [List.filter_append, hnone, List.nil_append, hend]

/-- A table that obeys rule R199 passes the check: the rule's parts are the cuts that the check makes. -/
theorem initTableLegal_of_rules (t : List InitStep) (h : InitTableRules t) : initTableLegal t = true := by
  obtain ⟨before, gap1, gap2, gap3, p1, p2, p3, p4, n1, n2, n3, n4, mEnable, mFull, aColour, vColour, aPanel, vPanel,
    aEnable, vEnable, aFull, vFull, rfl, ⟨hn1, hn2, hn3, hn4, hEnable, hFull⟩, hphases, hgaps, hregisters⟩ := h
  have hfree := powerFree_of_no_power_write _ fun step hstep => (hgaps step hstep).2
  have hending : PowerFree [.wr .colourMode65k aColour vColour, .wr .panelCharacteristic aPanel vPanel, .win,
      .wr .displayEnable aEnable vEnable, .dly mEnable, .wr .displayFullEnable aFull vFull, .dly mFull] := by
    simpa using hregisters
  have hbefore : PowerFree before := fun step hstep => hfree step (by simp [hstep])
  have hnoWin : InitStep.win ∉ before ++ gap1 ++ gap2 ++ gap3 := fun hwin => (hgaps _ hwin).1 rfl
  obtain ⟨hvalues, hsettled⟩ := powerStages_power_checks before gap1 gap2 gap3 _ p1 p2 p3 p4 n1 n2 n3 n4 hfree
    hending ⟨hn1, hn2, hn3, hn4⟩ _ rfl
  refine (initTableLegal_iff _).2 ⟨hvalues, hsettled, fun phase hphase => ?_, ?_, ?_⟩
  · simp only [List.append_assoc, List.cons_append]
    rw [beforePower_append before _ p1 0x88 hbefore]
    exact (any_isWriteOf_iff phase before).2 (hphases phase hphase)
  · rw [afterPower_append _ _ p4 0xD0 n4 hending]
    exact (endsDisplayOn_iff _).2 ⟨_, _, _, _, _, _, _, _, _, _, rfl, hEnable, hFull⟩
  · exact win_count_of_not_mem _ _ (by simpa [or_assoc] using hnoWin) rfl

/-- Settles O4: the check cuts a table at its four power writes, and the cuts are the table's parts in the rule. -/
theorem initTableCheckedAsRuleSays : Obligations.InitTableCheckedAsRuleSays := fun t =>
  ⟨initTableRules_of_legal t, initTableLegal_of_rules t⟩

end Sys2Proof.Machine
end

section
/-! SUPPORT. The family of the display state machine rules, second part: the controller commands RESET, CONFIG and
SETORI (rules R190, R191, R195, R200, R201, R210, R211), and who leaves and who reaches READY (rule R213). -/

namespace Sys2Proof.Machine

/-! ### RESET -/

/-- RESET has no guards: once its effect answers a state, it completes OK (rules R190, R262). -/
theorem exec_reset_of_effect (s u : State) (h : resetController s = .ok u) :
    exec .reset s = .next (complete .ok u) := (finish_eq_next _ _).mpr ⟨u, h, rfl⟩

/-- Settles O19: RESET acquires the free bus, and the pulse's events follow its SPEED event. -/
theorem resetCommandFromIdle : Obligations.ResetCommandFromIdle := by
  intro s h hw
  obtain ⟨hstream, hfree⟩ := h
  rw [exec_reset_of_effect s _ ((resetController_idle s _ hstream).mpr ⟨⟨hfree, hw⟩, rfl⟩), complete_ok]
  obtain ⟨howner, hlcd, -⟩ := hfree
  simp [State.afterReset, resetPulseEvents, hstream, howner, hlcd]

/-- Settles O20: RESET takes over the stream's acquisition, so no SPEED event comes before the pulse. -/
theorem resetCommandCutsStream : Obligations.ResetCommandCutsStream := by
  intro s h hw
  obtain ⟨hstream, howner, -, htp, -⟩ := h
  rw [exec_reset_of_effect s _ ((resetController_stream s _ hstream).mpr ⟨⟨howner, htp, hw⟩, rfl⟩), complete_ok]
  rfl

/-- RESET comes to hold the bus, whether it is free or a stream's (rule R190). -/
theorem takeBusForReset_of_bus (s : State) (h : BusIdle s ∨ StreamOpen s) :
    ∃ u, takeBusForReset s = .ok u ∧ u.owner = some .lcd ∧ u.cfg = s.cfg := by
  rcases h with ⟨hstream, hfree⟩ | ⟨hstream, howner, -⟩
  · refine ⟨s.withLcd, ?_, rfl, rfl⟩
    rw [takeBusForReset, hstream]
    exact (acquire_lcd s _).mpr ⟨hfree, rfl⟩
  · refine ⟨{ s with stream := false }, ?_, howner, rfl⟩
    rw [takeBusForReset, hstream]
    rfl

/-- With a delay timer that is too fast, the first of RESET's two waits stops the machine (rule R191). -/
theorem resetController_too_fast (s u : State) (h : takeBusForReset s = .ok u) (howner : u.owner = some .lcd)
    (hfast : u.cfg.ticksPerMs < u.cfg.trueTicksPerMs) : resetController s = .error .waitTooShort := by
  obtain ⟨v, hv, hcfg⟩ : ∃ v, deselect .lcd { u with ctl := .resetting } = .ok v ∧ v.cfg = u.cfg :=
    ⟨_, (deselect_eq_ok _ _ _).mpr ⟨howner, rfl⟩, rfl⟩
  have hwait : wait 50 (resetLine false v) = .error .waitTooShort := (wait_eq_error _ _ _).mpr ⟨hcfg ▸ hfast, rfl⟩
  rw [resetController, h, except_ok_bind, hv, except_ok_bind, hwait]
  rfl

/-- Settles O21: from either state of the bus RESET reaches its first wait, which stops. -/
theorem resetTooFastStops : Obligations.ResetTooFastStops := by
  intro s h hfast
  obtain ⟨u, hu, howner, hcfg⟩ := takeBusForReset_of_bus s h
  have hstops : resetController s = .error .waitTooShort := resetController_too_fast s u hu howner (hcfg ▸ hfast)
  show finish (resetController s) = _
  rw [hstops, finish]

/-! ### CONFIG -/

/-- CONFIG from CONFIGURING with the bus idle runs the table; its waits leave the timer idle (rules R195, R201,
R277). -/
theorem exec_config_runs_table (s : State) (h : BusIdle s) (hctl : s.ctl = .configuring) (hw : WaitsLongEnough s.cfg) :
    ∃ c m n, (n = s.timer ∨ n = 0) ∧ exec .config s = .next (complete .ok (s.afterConfig c m n)) := by
  obtain ⟨hstream, hfree⟩ := h
  obtain ⟨u, hu⟩ := configureController_ok s hfree hw
  obtain ⟨-, c, m, n, hn, -, rfl⟩ := configureController_eq_ok s u hu
  have hexec : exec .config s = finish (configureController s) := by simp [exec, execConfig, hstream, hctl]
  exact ⟨c, m, n, hn, hexec.trans ((finish_eq_next _ _).mpr ⟨_, hu, rfl⟩)⟩

/-- Settles O22: the timer was idle and is idle again. -/
theorem configRunsInitTable : Obligations.ConfigRunsInitTable := by
  intro s h hctl hw htimer
  obtain ⟨c, m, n, hn, hexec⟩ := exec_config_runs_table s h hctl hw
  obtain rfl : n = s.timer := hn.elim id fun hzero => hzero.trans htimer.symm
  refine ⟨c, m, ?_⟩
  rw [hexec, complete_ok]
  rfl

/-- How many wire events an init step has: eight for each register write, and a window has eight of them (rules R151,
R155). -/
def initStepEventCount : InitStep → Nat
  | .wr _ _ _ => 8
  | .dly _ => 1
  | .win => 64

theorem length_initStepEvents (c : Config) (o : BitVec 2) (step : InitStep) :
    (initStepEvents c o step).length = initStepEventCount step := by
  cases step <;> rfl

theorem length_initTableEvents (c : Config) (o : BitVec 2) (t : List InitStep) :
    (initTableEvents c o t).length = (t.map initStepEventCount).sum := by
  simp [initTableEvents, List.length_flatMap, length_initStepEvents]

/-- Settles O23: with device id 0 RSP and DSP are 0x70 and 0x72, and the full-screen window's greatest coordinates
are 239 and 319, in the order that the orientation gives. -/
theorem configRunsDefaultTable : Obligations.ConfigRunsDefaultTable := by
  intro s h hctl hcfg W window
  obtain ⟨c, m, n, -, hexec⟩ := exec_config_runs_table s h hctl (hcfg ▸ Nat.le_refl 1)
  have hW : ∀ a v, regWriteEvents defaultConfig a v = W a v := fun _ _ => rfl
  have hwindow : windowEvents defaultConfig 0 0 (logicalWidth s.orient - 1) (logicalHeight s.orient - 1) = window := by
    rw [windowEvents_eq, logicalWidth, logicalHeight]
    simp only [window]
    split <;> rfl
  have htrace : (s.afterConfig c m n).trace =
      s.trace ++ (.speed .disp :: initTableEvents defaultConfig s.orient defaultInitTable) := by
    rw [State.afterConfig, State.afterDisplay, hcfg]
    rfl
  refine ⟨_, hexec, rfl, rfl, rfl, ?_, ?_⟩
  · rw [complete_trace, htrace, List.length_append, List.length_cons, length_initTableEvents]
    rfl
  · rw [complete_trace, htrace]
    simp only [initTableEvents, defaultInitTable, defaultTrimSteps, defaultPowerSteps, defaultDisplayOnSteps,
      List.flatMap_cons, List.flatMap_nil, initStepEvents, hW, hwindow, List.append_nil,
      List.append_assoc, List.cons_append, List.nil_append]

/-! ### SETORI -/

/-- The orientation table: degrees, code, `OVAL`, `LWTAB`, `LHTAB` (rule R210). -/
def orientationTable : List (Half × BitVec 2 × Byte × Half × Half) :=
  [(0, 0, 0x08, 240, 320), (90, 1, 0xA8, 320, 240), (180, 2, 0xC8, 240, 320), (270, 3, 0x68, 320, 240)]

/-- The model's functions of the degrees and of the code are the table's columns. -/
theorem orientationTable_columns : ∀ row ∈ orientationTable, orientCode? row.1 = some row.2.1 ∧
    orientValue row.2.1 = row.2.2.1 ∧ logicalWidth row.2.1 = row.2.2.2.1 ∧ logicalHeight row.2.1 = row.2.2.2.2 := by
  simp only [orientationTable, List.forall_mem_cons]
  exact ⟨by decide, by decide, by decide, by decide, List.forall_mem_nil _⟩

/-- SETORI in READY with the bus idle, for degrees that have a code (rule R211). -/
theorem exec_setori_writes_code (s : State) (deg : Half) (code : BitVec 2) (h : BusIdle s) (hctl : s.ctl = .ready)
    (hcode : orientCode? deg = some code) :
    exec (.setori deg) s = .next (complete .ok
      { (s.afterDisplay (regWriteEvents s.cfg s.cfg.orientReg (orientValue code)) false
        (Config.mosiIdle s.epochs.length (s.trace.length + 7))) with orient := code, winArmed := false }) := by
  obtain ⟨hstream, hfree⟩ := h
  have hexec : exec (.setori deg) s = finish (writeOrientation code s) := by
    simp [exec, execSetori, hstream, hctl, hcode]
  rw [hexec, (writeOrientation_eq_ok code s _).mpr ⟨hfree, rfl⟩, finish]

/-- Settles O24: the row gives the code and the value that SETORI writes. -/
theorem setoriWritesOrientation : Obligations.SetoriWritesOrientation := by
  intro s deg code value w h hrow hidle hctl
  obtain ⟨hcode, hvalue, hw, hh⟩ := orientationTable_columns _ hrow
  refine ⟨hw, hh, false, Config.mosiIdle s.epochs.length (s.trace.length + 7), ?_⟩
  rw [exec_setori_writes_code s deg code hidle hctl hcode, complete_ok, hvalue]
  rfl

/-! ### READY (rule R213) -/

theorem xfer_ctl (o : Byte) (s t : State) (h : xfer o s = .ok t) : t.ctl = s.ctl := by
  obtain ⟨e, rfl | rfl⟩ := xfer_cases o s t h
  · rfl
  · simp

/-- Of the commands that complete OK only RESET and CONFIG write the controller state (rules R190, R201). -/
theorem effect_ctl (i : Instr) (s u : State) (h : Effect i s u) :
    u.ctl = s.ctl ∨ (i = .reset ∧ u.ctl = .configuring) ∨
      (i = .config ∧ s.ctl = .configuring ∧ u.ctl = .ready) := by
  cases i with
  | reset =>
    obtain ⟨-, ⟨-, -, rfl⟩ | ⟨-, -, -, rfl⟩⟩ := h
    · exact .inr (.inl ⟨rfl, rfl⟩)
    · exact .inr (.inl ⟨rfl, rfl⟩)
  | config =>
    obtain ⟨-, hctl, -, c, m, n, -, -, rfl⟩ := h
    exact .inr (.inr ⟨rfl, hctl, rfl⟩)
  | setori deg =>
    obtain ⟨-, -, -, o, -, rfl⟩ := h
    exact .inl rfl
  | wrreg a v =>
    obtain ⟨-, -, -, rfl⟩ := h
    exact .inl rfl
  | setwin x0 y0 x1 y1 =>
    obtain ⟨-, -, -, c, m, -, rfl⟩ := h
    exact .inl rfl
  | beginStream =>
    obtain ⟨-, -, -, -, rfl⟩ := h
    exact .inl rfl
  | pixel p =>
    obtain ⟨-, v, hv, hu⟩ := h
    exact .inl ((xfer_ctl _ v u hu).trans (xfer_ctl _ s v hv))
  | byte b => exact .inl (xfer_ctl b s u h.2)
  | endStream =>
    obtain ⟨-, -, -, rfl⟩ := h
    exact .inl rfl
  | tpoll =>
    obtain ⟨-, -, m, rfl⟩ := h
    split
    · exact .inl rfl
    · exact .inl rfl

/-- A step writes the controller state by block reset, or by a RESET or CONFIG that completes OK. -/
theorem step_ctl (s t : State) (h : step s = .next t) :
    t.ctl = s.ctl ∨ (BlockResetNext s ∧ t.ctl = .unpowered) ∨ (Running .reset s ∧ t.ctl = .configuring) ∨
      (Running .config s ∧ s.ctl = .configuring ∧ t.ctl = .ready ∧ t.result = .ok) := by
  rcases step_writers s t h with ⟨i, u, hrun, heffect, rfl⟩ | ⟨hnext, r, rfl⟩ | hport
  · rcases effect_ctl i s u heffect with hsame | ⟨rfl, hafter⟩ | ⟨rfl, hbefore, hafter⟩
    · exact .inl hsame
    · exact .inr (.inr (.inl ⟨hrun, hafter⟩))
    · exact .inr (.inr (.inr ⟨hrun, hbefore, hafter, rfl⟩))
  · exact .inr (.inl ⟨hnext, rfl⟩)
  · exact .inl (hport ▸ rfl)

/-- Settles O55: of the writers of the controller state the resets leave READY, and only CONFIG reaches it. -/
theorem readyLeftByResetsOnly : Obligations.ReadyLeftByResetsOnly := by
  intro s t hstep
  rcases step_ctl s t hstep with hsame | ⟨hreset, hafter⟩ | ⟨hrun, hafter⟩ | ⟨hrun, hbefore, hafter, hok⟩
  · exact ⟨fun hready hleft => absurd (hsame.trans hready) hleft,
      fun hbefore hready => absurd (hsame.symm.trans hready) hbefore⟩
  · exact ⟨fun _ _ => .inr hreset, fun _ hready => absurd (hafter.symm.trans hready) (by decide)⟩
  · exact ⟨fun _ _ => .inl hrun, fun _ hready => absurd (hafter.symm.trans hready) (by decide)⟩
  · exact ⟨fun _ hleft => absurd hafter hleft, fun _ _ => ⟨hrun, hbefore, hok⟩⟩

end Sys2Proof.Machine
end

section
/-! SUPPORT. The family of the touch rules: which of a poll's bytes reach the touch result registers (rules R222 to
R226), `Map` on the integers (rules R232, R233), and the transform built on it (rules R230, R231, R235, R236). -/

namespace Sys2Proof.Machine

/-! ### The bytes a poll keeps (rule R224) -/

theorem SameTouch.symm {s t : State} (h : SameTouch s t) : SameTouch t s := by
  simp only [SameTouch] at h ⊢
  simp [h]

theorem SameTouch.trans {s t u : State} (h : SameTouch s t) (g : SameTouch t u) : SameTouch s u := by
  simp only [SameTouch] at h g ⊢
  simp [h, g]

/-- A state whose touch result registers are those that TPOLL leaves when it samples `z1`, `z2`, `xr` and `yr`: with a
stream open the old ones (rule R265), else those of the branch that the pressure selects (rule R226). -/
def State.polled (s : State) (z1 z2 : Byte) (xr yr : Raw) : State :=
  if s.stream then s
  else if noContact s.cfg (pressure z1 z2) then storeTouch false 0 0 z1 z2 0 0 s
  else storeTouch true (transformX s.cfg s.orient xr yr) (transformY s.cfg s.orient xr yr) z1 z2 xr yr s

theorem polled_of_stream (s : State) (z1 z2 : Byte) (xr yr : Raw) (hstream : s.stream = true) :
    s.polled z1 z2 xr yr = s := if_pos hstream

theorem polled_of_noContact (s : State) (z1 z2 : Byte) (xr yr : Raw) (hstream : ¬ s.stream = true)
    (hno : noContact s.cfg (pressure z1 z2) = true) :
    s.polled z1 z2 xr yr = storeTouch false 0 0 z1 z2 0 0 s := by
  rw [State.polled, if_neg hstream, if_pos hno]

theorem polled_of_contact (s : State) (z1 z2 : Byte) (xr yr : Raw) (hstream : ¬ s.stream = true)
    (hyes : ¬ noContact s.cfg (pressure z1 z2) = true) : s.polled z1 z2 xr yr =
      storeTouch true (transformX s.cfg s.orient xr yr) (transformY s.cfg s.orient xr yr) z1 z2 xr yr s := by
  rw [State.polled, if_neg hstream, if_neg hyes]

/-- What is stored in the touch result registers does not depend on the state it is stored in. -/
theorem storeTouch_sameTouch (v : Bool) (x y : Int) (z1 z2 : Byte) (xr yr : Raw) (s s' : State) :
    SameTouch (storeTouch v x y z1 z2 xr yr s) (storeTouch v x y z1 z2 xr yr s') :=
  ⟨rfl, rfl, rfl, rfl, rfl, rfl, rfl, rfl⟩

theorem complete_sameTouch (r : Result) (s t : State) : SameTouch s (complete r t) ↔ SameTouch s t := Iff.rfl

/-- Of the MISO bytes only those of the four samples reach the touch result registers. -/
theorem exec_tpoll_touch (s t : State) (h : exec .tpoll s = .next t) :
    SameTouch (s.polled (pollZ1 s) (pollZ2 s) (pollXraw s) (pollYraw s)) t := by
  by_cases hstream : s.stream = true
  · have hraise : raise .busConflict s = .next t := by simpa [exec, execTpoll, hstream] using h
    obtain rfl : complete .busConflict s = t := by simpa [raise] using hraise
    rw [polled_of_stream s _ _ _ _ hstream, complete_sameTouch]
    exact sameTouch_refl s
  · have hfinish : finish (pollTouch s) = .next t := by simpa [exec, execTpoll, hstream] using h
    obtain ⟨u, hu, rfl⟩ := (finish_eq_next _ _).mp hfinish
    obtain ⟨-, m, n, -, -, rfl⟩ := (pollTouch_eq_ok s u).mp hu
    rw [complete_sameTouch]
    by_cases hno : noContact s.cfg (pollPressure s) = true
    · rw [if_pos hno, polled_of_noContact s _ _ _ _ hstream hno]
      exact storeTouch_sameTouch _ _ _ _ _ _ _ _ _
    · rw [if_neg hno, polled_of_contact s _ _ _ _ hstream hno]
      exact storeTouch_sameTouch _ _ _ _ _ _ _ _ _

/-- With the samples given, what the touch result registers become does not depend on the MISO bytes. -/
theorem polled_miso (s : State) (ms : List Byte) (z1 z2 : Byte) (xr yr : Raw) :
    SameTouch (s.polled z1 z2 xr yr) (State.polled { s with miso := ms } z1 z2 xr yr) := by
  simp only [State.polled]
  split_ifs
  · exact sameTouch_refl s
  · exact storeTouch_sameTouch _ _ _ _ _ _ _ _ _
  · exact storeTouch_sameTouch _ _ _ _ _ _ _ _ _

/-- The six bytes that `pollScript` names are those of the four samples. -/
theorem samples_of_pollScript (s : State) (n : Nat → Byte) (z1 z2 xh xl yh yl : Byte) (rest : List Byte)
    (h : s.miso = pollScript n z1 z2 xh xl yh yl ++ rest) :
    pollZ1 s = z1 ∧ pollZ2 s = z2 ∧ pollXraw s = rawSample xh xl ∧ pollYraw s = rawSample yh yl := by
  simp [pollZ1, pollZ2, pollXraw, pollYraw, misoByte, h, pollScript]

/-- Whatever the discarded bytes are, a poll leaves in the registers what the six bytes it keeps give. -/
theorem exec_tpoll_pollScript (s t : State) (n : Nat → Byte) (z1 z2 xh xl yh yl : Byte) (rest : List Byte)
    (h : exec .tpoll { s with miso := pollScript n z1 z2 xh xl yh yl ++ rest } = .next t) :
    SameTouch (s.polled z1 z2 (rawSample xh xl) (rawSample yh yl)) t := by
  have htouch := exec_tpoll_touch _ t h
  obtain ⟨hz1, hz2, hx, hy⟩ := samples_of_pollScript { s with miso := pollScript n z1 z2 xh xl yh yl ++ rest }
    n z1 z2 xh xl yh yl rest rfl
  rw [hz1, hz2, hx, hy] at htouch
  exact (polled_miso s _ z1 z2 _ _).trans htouch

/-- Settles O40: both polls sample the same four values, and nothing else of the bytes reaches the registers. -/
theorem discardedBytesDoNotMatter : Obligations.DiscardedBytesDoNotMatter :=
  fun s t t' n n' z1 z2 xh xl yh yl rest h h' =>
    (exec_tpoll_pollScript s t n z1 z2 xh xl yh yl rest h).symm.trans
      (exec_tpoll_pollScript s t' n' z1 z2 xh xl yh yl rest h')

/-! ### `Map` (rules R232, R233) -/

section
variable {inMin inMax outMin outMax : Int}

/-- `Map` is a floor (rule R232): an integer is at most `Map - out_min` iff it is at most the exact quotient. -/
theorem le_calMap_sub_iff (hin : inMin < inMax) (v q : Int) :
    q ≤ calMap v inMin inMax outMin outMax - outMin ↔ q * (inMax - inMin) ≤ (v - inMin) * (outMax - outMin) := by
  have hpos : 0 < inMax - inMin := Int.sub_pos.mpr hin
  rw [calMap, Int.add_sub_cancel, Int.fdiv_eq_ediv_of_nonneg _ hpos.le, Int.le_ediv_iff_mul_le hpos]

theorem calMap_sub_mul_le (hin : inMin < inMax) (v : Int) :
    (calMap v inMin inMax outMin outMax - outMin) * (inMax - inMin) ≤ (v - inMin) * (outMax - outMin) :=
  (le_calMap_sub_iff hin v _).mp le_rfl

theorem lt_calMap_sub_add_one_mul (hin : inMin < inMax) (v : Int) :
    (v - inMin) * (outMax - outMin) < (calMap v inMin inMax outMin outMax - outMin + 1) * (inMax - inMin) :=
  not_le.mp fun hle => absurd ((le_calMap_sub_iff hin v _).mpr hle) (by omega)

@[simp] theorem calMap_inMin : calMap inMin inMin inMax outMin outMax = outMin := by
  simp [calMap]

theorem calMap_inMax (hin : inMin < inMax) : calMap inMax inMin inMax outMin outMax = outMax := by
  rw [calMap, Int.mul_fdiv_cancel_left _ (Int.sub_pos.mpr hin).ne', Int.sub_add_cancel]

theorem calMap_mono (hin : inMin < inMax) (hout : outMin ≤ outMax) {v w : Int} (hvw : v ≤ w) :
    calMap v inMin inMax outMin outMax ≤ calMap w inMin inMax outMin outMax := by
  have hnum : (v - inMin) * (outMax - outMin) ≤ (w - inMin) * (outMax - outMin) :=
    Int.mul_le_mul_of_nonneg_right (by omega) (by omega)
  have hsub := (le_calMap_sub_iff hin w _).mpr ((calMap_sub_mul_le hin v).trans hnum)
  omega

/-- `Map` moves no further from `out_min` than the product it divides. -/
theorem natAbs_calMap_sub_le (hin : inMin < inMax) (v : Int) :
    (calMap v inMin inMax outMin outMax - outMin).natAbs ≤ (v - inMin).natAbs * (outMax - outMin).natAbs := by
  rw [calMap, Int.add_sub_cancel, Int.fdiv_eq_ediv_of_nonneg _ (by omega), ← Int.natAbs_mul]
  exact Int.natAbs_ediv_le_natAbs _ _

/-- The midpoint of the input range, a floor, lies half the range above its lower end, or half a step less. -/
theorem fdiv_two_sub_bounds (a b : Int) :
    2 * (Int.fdiv (a + b) 2 - a) ≤ b - a ∧ b - a - 1 ≤ 2 * (Int.fdiv (a + b) 2 - a) := by
  rw [Int.fdiv_eq_ediv_of_nonneg _ (by decide)]
  omega

/-- `Map` of the input midpoint is not above the output midpoint. -/
theorem calMap_midpoint_le (hin : inMin < inMax) (hout : outMin ≤ outMax) :
    2 * calMap (Int.fdiv (inMin + inMax) 2) inMin inMax outMin outMax ≤ outMin + outMax := by
  have hfloor := calMap_sub_mul_le (outMin := outMin) (outMax := outMax) hin (Int.fdiv (inMin + inMax) 2)
  have hmid := (fdiv_two_sub_bounds inMin inMax).1
  generalize calMap (Int.fdiv (inMin + inMax) 2) inMin inMax outMin outMax = m at hfloor ⊢
  generalize Int.fdiv (inMin + inMax) 2 = k at hfloor hmid
  have hscaled : 2 * (m - outMin) * (inMax - inMin) ≤ (outMax - outMin) * (inMax - inMin) := by
    calc 2 * (m - outMin) * (inMax - inMin) = 2 * ((m - outMin) * (inMax - inMin)) := by ring
      _ ≤ 2 * ((k - inMin) * (outMax - outMin)) := by omega
      _ = 2 * (k - inMin) * (outMax - outMin) := by ring
      _ ≤ (inMax - inMin) * (outMax - outMin) := Int.mul_le_mul_of_nonneg_right hmid (by omega)
      _ = (outMax - outMin) * (inMax - inMin) := by ring
  have hhalf := Int.le_of_mul_le_mul_right hscaled (Int.sub_pos.mpr hin)
  omega

/-- How far below the output midpoint `Map` of the input midpoint can be: two floors, each scaled by its range. -/
theorem midpoint_sub_calMap_lt (hin : inMin < inMax) (hout : outMin ≤ outMax) :
    (outMin + outMax - 2 * calMap (Int.fdiv (inMin + inMax) 2) inMin inMax outMin outMax) * (inMax - inMin) <
      (outMax - outMin) + 2 * (inMax - inMin) := by
  have hfloor := lt_calMap_sub_add_one_mul (outMin := outMin) (outMax := outMax) hin (Int.fdiv (inMin + inMax) 2)
  have hmid := (fdiv_two_sub_bounds inMin inMax).2
  generalize calMap (Int.fdiv (inMin + inMax) 2) inMin inMax outMin outMax = m at hfloor ⊢
  generalize Int.fdiv (inMin + inMax) 2 = k at hfloor hmid
  have hscaled : (inMax - inMin - 1) * (outMax - outMin) ≤ 2 * (k - inMin) * (outMax - outMin) :=
    Int.mul_le_mul_of_nonneg_right hmid (by omega)
  linarith

end

/-- Settles O43: the two sides of the floor. -/
theorem mapIsExactFloor : Obligations.MapIsExactFloor := fun v _ _ _ _ hin =>
  ⟨calMap_sub_mul_le hin v, fun q hq => (le_calMap_sub_iff hin v q).mpr hq⟩

/-- Settles O45: the bounds of the floor at the midpoint. -/
theorem mapMidpointAtAnyRange : Obligations.MapMidpointAtAnyRange := fun _ _ _ _ hin hout =>
  ⟨calMap_midpoint_le hin hout, midpoint_sub_calMap_lt hin hout⟩

/-- Settles O44: with an output range no wider than the input range the bound below the midpoint is less than 3 halves,
and so at most 1. -/
theorem mapEndpointsMonotoneMidpoint : Obligations.MapEndpointsMonotoneMidpoint := by
  intro inMin inMax outMin outMax hin hout
  refine ⟨calMap_inMin, calMap_inMax hin, fun _ _ => calMap_mono hin hout, fun hwide => ?_⟩
  have habove := calMap_midpoint_le hin hout
  have hbelow := midpoint_sub_calMap_lt hin hout
  generalize calMap (Int.fdiv (inMin + inMax) 2) inMin inMax outMin outMax = m at habove hbelow ⊢
  have hthree : (outMin + outMax - 2 * m) * (inMax - inMin) < 3 * (inMax - inMin) := by omega
  have hgap := Int.lt_of_mul_lt_mul_right hthree (Int.sub_nonneg.mpr hin.le)
  omega

/-! ### The transform (rules R230, R231, R235, R236) -/

theorem mapInputX_range (c : BitVec 2) (xr yr : Raw) : 0 ≤ mapInputX c xr yr ∧ mapInputX c xr yr ≤ 4095 := by
  unfold mapInputX
  split_ifs <;> omega

theorem mapInputY_range (c : BitVec 2) (xr yr : Raw) : 0 ≤ mapInputY c xr yr ∧ mapInputY c xr yr ≤ 4095 := by
  unfold mapInputY
  split_ifs <;> omega

theorem logicalWidth_range (c : BitVec 2) : 1 ≤ (logicalWidth c).toNat ∧ (logicalWidth c).toNat ≤ 320 := by
  unfold logicalWidth
  split_ifs <;> decide

theorem logicalHeight_range (c : BitVec 2) : 1 ≤ (logicalHeight c).toNat ∧ (logicalHeight c).toNat ≤ 320 := by
  unfold logicalHeight
  split_ifs <;> decide

/-- `Map` of a 12-bit input with 12-bit bounds, onto at most 320 values: at most 4095 × 319, whatever the bounds. -/
theorem natAbs_calMap_raw_lt (v n : Int) (lo hi : Raw) (hlegal : lo.toNat < hi.toNat) (hv : 0 ≤ v ∧ v ≤ 4095)
    (hn : 0 ≤ n ∧ n ≤ 319) : (calMap v lo.toNat hi.toNat 0 n).natAbs < 2 ^ 21 := by
  have hlo := lo.isLt
  have hmap := natAbs_calMap_sub_le (outMin := 0) (outMax := n) (Int.ofNat_lt.mpr hlegal) v
  rw [Int.sub_zero] at hmap
  calc (calMap v lo.toNat hi.toNat 0 n).natAbs
    _ ≤ (v - (lo.toNat : Int)).natAbs * (n - 0).natAbs := hmap
    _ ≤ 4095 * 319 := Nat.mul_le_mul (by omega) (by omega)
    _ < 2 ^ 21 := by norm_num

theorem natAbs_mapWithBounds_lt (cfg : Config) (bounds : RawAxis) (v : Int) (size : Half)
    (hx : cfg.xMin.toNat < cfg.xMax.toNat) (hy : cfg.yMin.toNat < cfg.yMax.toNat) (hv : 0 ≤ v ∧ v ≤ 4095)
    (hsize : 1 ≤ size.toNat ∧ size.toNat ≤ 320) : (mapWithBounds cfg bounds v size).natAbs < 2 ^ 21 := by
  cases bounds with
  | x => exact natAbs_calMap_raw_lt v _ _ _ hx hv (by omega)
  | y => exact natAbs_calMap_raw_lt v _ _ _ hy hv (by omega)

/-- A value below 2^21 in size is what its 32-bit word reads back as, signed. -/
theorem coordWord_toInt (v : Int) (h : v.natAbs < 2 ^ 21) : (coordWord v).toInt = v :=
  BitVec.toInt_ofInt_eq_self (by decide) (by omega) (by omega)

/-- Settles O46: both coordinates stay below 2^21, and so within 32-bit two's complement. -/
theorem coordinatesFitWithoutOverflow : Obligations.CoordinatesFitWithoutOverflow := by
  intro cfg c xr yr hx hy
  have hX : (transformX cfg c xr yr).natAbs < 2 ^ 21 :=
    natAbs_mapWithBounds_lt cfg _ _ _ hx hy (mapInputX_range c xr yr) (logicalWidth_range c)
  have hY : (transformY cfg c xr yr).natAbs < 2 ^ 21 :=
    natAbs_mapWithBounds_lt cfg _ _ _ hx hy (mapInputY_range c xr yr) (logicalHeight_range c)
  exact ⟨hX, hY, coordWord_toInt _ hX, coordWord_toInt _ hY⟩

theorem boundsForX_screen (cfg : Config) (c : BitVec 2) (h : cfg.calBinding = .screen) : boundsForX cfg c = .x := by
  simp [boundsForX, h]

theorem boundsForY_screen (cfg : Config) (c : BitVec 2) (h : cfg.calBinding = .screen) : boundsForY cfg c = .y := by
  simp [boundsForY, h]

theorem boundsForX_raw (cfg : Config) (c : BitVec 2) (h : cfg.calBinding = .raw) :
    boundsForX cfg c = screenXFrom c := by
  simp [boundsForX, h]

theorem boundsForY_raw (cfg : Config) (c : BitVec 2) (h : cfg.calBinding = .raw) :
    boundsForY cfg c = screenYFrom c := by
  simp [boundsForY, h]

/-- Where the axes are not exchanged the two bindings agree. -/
theorem boundsForX_straight (cfg : Config) (c : BitVec 2) (hc : c = 0 ∨ c = 2) : boundsForX cfg c = .x := by
  cases h : cfg.calBinding with
  | screen => exact boundsForX_screen cfg c h
  | raw => rw [boundsForX_raw cfg c h, screenXFrom, if_pos hc]

theorem boundsForY_straight (cfg : Config) (c : BitVec 2) (hc : c = 0 ∨ c = 2) : boundsForY cfg c = .y := by
  cases h : cfg.calBinding with
  | screen => exact boundsForY_screen cfg c h
  | raw => rw [boundsForY_raw cfg c h, screenYFrom, if_pos hc]

/-- Settles O42: once the bounds are known, each row is the map input and the range of its orientation. -/
theorem transformTable : Obligations.TransformTable := by
  intro cfg xr yr
  refine ⟨⟨?_, ?_⟩, ⟨?_, ?_⟩, fun hscreen => ⟨?_, ?_, ?_, ?_⟩, fun hraw => ⟨?_, ?_, ?_, ?_⟩⟩
  · rw [transformX, boundsForX_straight cfg 0 (.inl rfl)]; rfl
  · rw [transformY, boundsForY_straight cfg 0 (.inl rfl)]; rfl
  · rw [transformX, boundsForX_straight cfg 2 (.inr rfl)]; rfl
  · rw [transformY, boundsForY_straight cfg 2 (.inr rfl)]; rfl
  · rw [transformX, boundsForX_screen cfg 1 hscreen]; rfl
  · rw [transformY, boundsForY_screen cfg 1 hscreen]; rfl
  · rw [transformX, boundsForX_screen cfg 3 hscreen]; rfl
  · rw [transformY, boundsForY_screen cfg 3 hscreen]; rfl
  · rw [transformX, boundsForX_raw cfg 1 hraw]; rfl
  · rw [transformY, boundsForY_raw cfg 1 hraw]; rfl
  · rw [transformX, boundsForX_raw cfg 3 hraw]; rfl
  · rw [transformY, boundsForY_raw cfg 3 hraw]; rfl

end Sys2Proof.Machine
end

section
/-! SUPPORT. The family of the exception rules, first part: a command that completes, whatever its result (rules R261,
R262, R269), and the guards that raise an error (rules R265 to R268). -/

namespace Sys2Proof.Machine

/-! ### The completion step (rules R261, R262) -/

/-- The completion step with an error sets the sticky flag. -/
theorem complete_error (code : Result) (s : State) (h : code ≠ .ok) :
    complete code s = { s with result := code, errSticky := true, cbuf := [], busy := false } := by
  simp [complete, h]

theorem raise_error (code : Result) (s : State) (h : code ≠ .ok) :
    raise code s = .next { s with result := code, errSticky := true, cbuf := [], busy := false } :=
  congrArg _ (complete_error code s h)

/-- A command whose guards have passed completes with no other result than OK. -/
theorem finish_result (r : Except Fault State) (t : State) (h : finish r = .next t) : t.result = .ok := by
  obtain ⟨u, -, rfl⟩ := (finish_eq_next r t).mp h
  rfl

/-- Settles O36: a command that completes has raised an error, or its result is OK. -/
theorem errorsArePrecise : Obligations.ErrorsArePrecise := by
  intro i s t hexec hresult
  rcases exec_cases i s t hexec with ⟨code, hcode, -, rfl⟩ | ⟨u, -, rfl⟩
  · exact complete_error code s hcode
  · exact absurd rfl hresult

/-- Settles O37: the completion step follows an error at once, and otherwise an effect, which leaves PENDING and the
sticky flag to it. -/
theorem completionStepAlwaysDone : Obligations.CompletionStepAlwaysDone := by
  intro i s t hexec
  rcases exec_cases i s t hexec with ⟨code, -, hcode, rfl⟩ | ⟨u, heffect, rfl⟩
  · exact ⟨rfl, rfl, rfl, hcode, rfl⟩
  · have hframe := effect_frame i s u heffect
    refine ⟨rfl, rfl, hframe.pend, by simp, ?_⟩
    simp [hframe.errSticky]

/-! ### An open stream (rule R265) -/

/-- The stream is the first guard of every command but RESET and the stream's own. -/
theorem exec_of_stream (i : Instr) (s : State) (hs : s.stream = true) (hreset : i ≠ .reset) (hend : i ≠ .endStream)
    (hpixel : ∀ p, i ≠ .pixel p) (hbyte : ∀ b, i ≠ .byte b) : exec i s = raise .busConflict s := by
  cases i with
  | reset => exact absurd rfl hreset
  | config => exact if_pos hs
  | setori deg => exact if_pos hs
  | wrreg a v => exact if_pos hs
  | setwin x0 y0 x1 y1 => exact if_pos hs
  | beginStream => exact if_pos hs
  | pixel p => exact absurd rfl (hpixel p)
  | byte b => exact absurd rfl (hbyte b)
  | endStream => exact absurd rfl hend
  | tpoll => exact if_pos hs

/-- Settles O34: BUS_CONFLICT is raised, and that is all. -/
theorem streamRefusesOtherCommands : Obligations.StreamRefusesOtherCommands := by
  intro i s hs hreset hend hpixel hbyte
  rw [exec_of_stream i s hs hreset hend hpixel hbyte, raise_error _ s (by decide)]

/-! ### The controller's state (rule R266) -/

theorem exec_config_wrongState (s : State) (hs : s.stream = false) (hctl : s.ctl ≠ .configuring) :
    exec .config s = raise .wrongState s := by
  simp [exec, execConfig, hs, hctl]

theorem exec_wrreg_wrongState (s : State) (a v : Byte) (hs : s.stream = false) (hctl : s.ctl = .unpowered) :
    exec (.wrreg a v) s = raise .wrongState s := by
  simp [exec, execWrreg, hs, hctl]

theorem exec_setori_wrongState (s : State) (deg : Half) (hs : s.stream = false) (hctl : s.ctl ≠ .ready) :
    exec (.setori deg) s = raise .wrongState s := by
  simp [exec, execSetori, hs, hctl]

theorem exec_setwin_wrongState (s : State) (x0 y0 x1 y1 : Half) (hs : s.stream = false) (hctl : s.ctl ≠ .ready) :
    exec (.setwin x0 y0 x1 y1) s = raise .wrongState s := by
  simp [exec, execSetwin, hs, hctl]

/-- BEGIN raises WRONG_STATE outside READY, and in READY without an armed window (rule R160). -/
theorem exec_begin_wrongState (s : State) (hs : s.stream = false) (h : s.ctl ≠ .ready ∨ s.winArmed = false) :
    exec .beginStream s = raise .wrongState s := by
  rcases h with hctl | harmed
  · simp [exec, execBegin, hs, hctl]
  · simp [exec, execBegin, hs, harmed]

/-- The stream's own commands need an open stream (rules R164, R170, R175). -/
theorem exec_streamCommand_wrongState (i : Instr) (s : State) (hs : s.stream = false)
    (hi : (∃ p, i = .pixel p) ∨ (∃ b, i = .byte b) ∨ i = .endStream) : exec i s = raise .wrongState s := by
  rcases hi with ⟨p, rfl⟩ | ⟨b, rfl⟩ | rfl
  · exact if_pos hs
  · exact if_pos hs
  · exact if_pos hs

theorem exec_reset_result (s t : State) (h : exec .reset s = .next t) : t.result = .ok := finish_result _ t h

/-- The only error of TPOLL is BUS_CONFLICT (rule R240). -/
theorem exec_tpoll_result (s t : State) (h : exec .tpoll s = .next t) : t.result = .ok ∨ t.result = .busConflict := by
  simp only [exec, execTpoll] at h
  split at h
  · cases h
    exact .inr rfl
  · exact .inl (finish_result _ t h)

/-- Settles O35: every cause raises WRONG_STATE, and RESET and TPOLL have other results. -/
theorem wrongStateCauses : Obligations.WrongStateCauses := by
  refine ⟨fun i s hcause => ?_, fun s t hexec hresult => ?_⟩
  · rw [← raise_error .wrongState s (by decide)]
    rcases hcause with ⟨rfl, hs, hctl⟩ | ⟨⟨a, v, rfl⟩, hs, hctl⟩ | ⟨⟨deg, rfl⟩, hs, hctl⟩ |
      ⟨⟨x0, y0, x1, y1, rfl⟩, hs, hctl⟩ | ⟨rfl, hs, hguard⟩ | ⟨hi, hs⟩
    · exact exec_config_wrongState s hs hctl
    · exact exec_wrreg_wrongState s a v hs hctl
    · exact exec_setori_wrongState s deg hs hctl
    · exact exec_setwin_wrongState s x0 y0 x1 y1 hs hctl
    · exact exec_begin_wrongState s hs hguard
    · exact exec_streamCommand_wrongState i s hs hi
  · rcases hexec with hreset | hpoll
    · simp [exec_reset_result s t hreset] at hresult
    · rcases exec_tpoll_result s t hpoll with hok | hconflict
      · simp [hok] at hresult
      · simp [hconflict] at hresult

/-! ### SETORI's degrees (rule R267) -/

theorem orientCode?_eq_none (deg : Half) (h : deg ∉ [0, 90, 180, 270]) : orientCode? deg = none := by
  simp only [List.mem_cons, List.not_mem_nil, or_false, not_or] at h
  obtain ⟨h0, h90, h180, h270⟩ := h
  rw [orientCode?, if_neg h0, if_neg h90, if_neg h180, if_neg h270]

/-- Settles O25: the stream and the controller's state let SETORI pass, and the degrees have no code. -/
theorem setoriRejectsOtherDegrees : Obligations.SetoriRejectsOtherDegrees := by
  intro s deg hdeg hs hctl
  rw [← raise_error .invalidOrientation s (by decide)]
  simp [exec, execSetori, hs, hctl, orientCode?_eq_none deg hdeg]

end Sys2Proof.Machine
end

section
/-! SUPPORT. The family of the exception rules, second part: every step with an admitted access goes on (rules R263,
R270, R311), and block reset acts at once (rules R274, R290). -/

namespace Sys2Proof.Machine

/-! ### The running command -/

/-- The accepted words, a command or an illegal word0, leave BUSY 0 (rules R262, R264). -/
theorem runCommand_busy (s t : State) (h : runCommand s = .next t) : t.busy = false := by
  rcases runCommand_eq_next s t h with ⟨i, -, hexec⟩ | ⟨-, rfl⟩
  · exact exec_busy i s t hexec
  · rfl

/-- The accepted words only append to the trace. -/
theorem runCommand_trace (s t : State) (h : runCommand s = .next t) : s.trace <+: t.trace := by
  rcases runCommand_eq_next s t h with ⟨i, -, hexec⟩ | ⟨-, rfl⟩
  · exact (commandsOnlyAppendEvents i s t hexec).1
  · exact List.prefix_rfl

theorem completionOf_next (s t : State) (h : runCommand s = .next t) : completionOf s = t := by
  simp [completionOf, h]

/-- A command that could not complete counts as one that does nothing (assumption log 8). -/
theorem completionOf_stopped (s : State) (h : ∀ t, runCommand s ≠ .next t) : completionOf s = s := by
  unfold completionOf
  split
  · exact absurd ‹_› (h _)
  · rfl

/-! ### Every step goes on (rules R263, R270, R311) -/

/-- With a sound collector an admitted access is carried out, and so is block reset. -/
theorem hostMove_ok (op : HostOp) (rest : List HostOp) (d s u : State) (ho : s.hostOps = op :: rest)
    (ha : NextAccessAdmitted s) (hu : CollectorSound u) : ∃ t, hostMove op d u = .ok t := by
  have hop := ha op (by simp [ho])
  cases op with
  | write off bytes v =>
    obtain ⟨rfl, halign, hwindow⟩ := hop
    rw [hostMove, hostWrite, if_pos (admitted_aligned off halign hwindow)]
    split
    · exact collect_ok v u hu
    · exact ⟨u, rfl⟩
  | read off bytes =>
    obtain ⟨rfl, halign, hwindow⟩ := hop
    exact ⟨_, if_pos (admitted_aligned off halign hwindow)⟩
  | awaitIdle => exact ⟨u, rfl⟩
  | blockReset k => exact ⟨_, rfl⟩

/-- Settles O53, by whose move the step is: the command completes because no wait is too short, and where the host moves
it was not waiting for a running command. -/
theorem everyStepGoesOn : Obligations.EveryStepGoesOn := by
  intro s h hc hw ha
  rcases step_eq_move s hc with ⟨hb, -, hrun⟩ | ⟨op, rest, ho, hfree, hmove⟩ | ⟨hb, -, hidle⟩
  · rcases runCommand_nextOrTooShort s h hb with ⟨t, ht⟩ | ⟨hshort, -⟩
    · exact ⟨t, hrun.trans ht, fun _ _ => runCommand_busy s t ht⟩
    · exact absurd hw hshort
  · obtain ⟨t, ht⟩ := hostMove_ok op rest (completionOf s).dropHostOp s s.dropHostOp ho ha
      (dropHostOp_blockInv s h).collector
    refine ⟨t, by rw [hmove, ht, moveOutcome], fun hb hwaits => ?_⟩
    have hheld : holdsBack op = true := hwaits op (by simp [ho])
    simp [hb, hheld] at hfree
  · exact ⟨s, hidle, fun hbusy => absurd (hb.symm.trans hbusy) (by decide)⟩

/-! ### Block reset (rules R274, R290) -/

/-- What the ended epoch shows of the running command if block reset comes after `k` of its events. -/
def eventsShown (k : Nat) (s : State) : List Event :=
  if s.busy then ((completionOf s).trace.drop s.trace.length).take k else []

theorem eventsShown_idle (k : Nat) (s : State) (hb : s.busy = false) : eventsShown k s = [] := by
  simp [eventsShown, hb]

theorem eventsShown_stopped (k : Nat) (s : State) (h : ∀ t, runCommand s ≠ .next t) : eventsShown k s = [] := by
  simp [eventsShown, completionOf_stopped s h]

theorem eventsShown_next (k : Nat) (s t : State) (hb : s.busy = true) (h : runCommand s = .next t) (all : List Event)
    (hall : t.trace = s.trace ++ all) : eventsShown k s = all.take k := by
  simp [eventsShown, hb, completionOf_next s t h, hall]

/-- The state after block reset, whether a command runs or not. -/
theorem step_blockReset (k : Nat) (rest : List HostOp) (s : State) (hc : configLegal s.cfg = true)
    (ho : s.hostOps = .blockReset k :: rest) :
    step s = .next { State.resetWith s.cfg with
      hostOps := rest
      miso := s.miso.drop (misoBytesIn (eventsShown k s))
      misoDraws := s.misoDraws + (misoBytesIn (eventsShown k s) - s.miso.length)
      readLog := s.readLog
      busyReads := s.busyReads
      epochs := s.epochs ++ [s.trace ++ eventsShown k s] } := by
  rw [step_of_hostOp _ rest s hc ho (by simp [holdsBack]), dropHostOp_eq _ rest s ho]
  cases hb : s.busy with
  | false => simp [hostMove, moveOutcome, blockReset, eventsShown_idle k s hb, misoBytesIn]
  | true => simp [hostMove, moveOutcome, blockReset, abandonAfter, eventsShown, hb]

/-- Settles O18: the events shown are none, or a first part of what the completed command would have appended. -/
theorem blockResetActsAtOnce : Obligations.BlockResetActsAtOnce := by
  intro k rest s hc ho
  refine ⟨eventsShown k s, step_blockReset k rest s hc ho, eventsShown_idle k s,
    fun _ hstop => eventsShown_stopped k s hstop, fun t hb hrun => ?_⟩
  obtain ⟨all, hall⟩ := runCommand_trace s t hrun
  exact ⟨all, hall.symm, eventsShown_next k s t hb hrun all hall.symm⟩

end Sys2Proof.Machine
end

section
/-! SUPPORT. The family of the reset and hazard rules: the idle block (rule R291). -/

namespace Sys2Proof.Machine

/-- Settles O5, by whose move the step is: it is not the command's without BUSY, nor the host's without an access. -/
theorem idleBlockRunsNothing : Obligations.IdleBlockRunsNothing := by
  intro s hc hb ho
  rcases step_eq_move s hc with ⟨hbusy, -, -⟩ | ⟨op, rest, hop, -, -⟩ | ⟨-, -, hidle⟩
  · exact absurd hbusy (Bool.eq_false_iff.1 hb)
  · exact absurd (ho.symm.trans hop) (List.cons_ne_nil op rest).symm
  · exact hidle

end Sys2Proof.Machine
end
